-- ==== Sys2Proof/Word.lean ====
section
/-! DEFINITION. The words of the block: 32-bit register values, FIFO words, counters and command words (R9), bytes of memory (R100). -/

namespace Sys2Proof

/-- A 32-bit word (R9); bit 0 is the least significant (R10). -/
abbrev Word := BitVec 32

/-- One byte of memory (R100). -/
abbrev Byte := BitVec 8

end Sys2Proof
end

