-- ==== Sys2Proof/Syntax.lean ====
section
/-! DEFINITION. The commands of the block (R147): one constructor per row of the opcode table, with its operands.
Also the pseudo-instructions of R161 and the textual form of R160. -/

namespace Sys2Proof

/-- A direction: RX is capture, TX is playback (R19, R152). -/
inductive Dir
  | rx | tx
  deriving DecidableEq, Repr, Inhabited

/-- A command with its operands (R140 to R147). `off` is a register's byte offset IMM[7:0] (R142), a profile is the
byte of R151, a direction mask is its two bits (R153), a count is IMM[15:0] (R144). -/
inductive Instr
  /-- REG_READ (R180). -/
  | regRead (off : BitVec 8)
  /-- REG_WRITE (R181): offset, then the value word. -/
  | regWrite (off : BitVec 8) (value : Word)
  /-- REG_UPDATE_BITS (R183): offset, then the mask word, then the value word. -/
  | regUpdateBits (off : BitVec 8) (mask value : Word)
  /-- RESOLVE (R210): the profile byte. -/
  | resolve (profile : BitVec 8)
  /-- CLEAR_REGISTERS (R214). -/
  | clearRegisters
  /-- CONFIGURE (R215). -/
  | configure
  /-- ENABLE (R223). -/
  | enable
  /-- CLEAR_FIFOS (R250): the directions to clear. -/
  | clearFifos (tx rx : Bool)
  /-- PRIME_TX_FIFO (R253): how many zero words to push. -/
  | primeTxFifo (n : BitVec 16)
  /-- SYNC_FIFOS (R254): the directions to enable. -/
  | syncFifos (tx rx : Bool)
  /-- DMA_PREPARE (R291). -/
  | dmaPrepare (d : Dir)
  /-- DMA_SUBMIT (R294). -/
  | dmaSubmit
  /-- DMA_TERMINATE (R296). -/
  | dmaTerminate
  /-- PERIOD_CALLBACK (R320): run by the IRQ agent only, illegal in every stream (R149). -/
  | periodCallback
  /-- INIT (R331): the profile byte. -/
  | init (profile : BitVec 8)
  /-- BUFFERS_SETUP (R332): period_frames, then channel_count. -/
  | buffersSetup (pf cc : Word)
  /-- START_STOP with ARG 0, Stop (R341). -/
  | stop
  /-- START_STOP with ARG 1, Start (R340). -/
  | start
  /-- EXIT (R342). -/
  | exit
  /-- WAIT_COMPLETION (R350), a CONS command. -/
  | waitCompletion
  /-- READ_BUF_IDX (R352), a CONS command. -/
  | readBufIdx
  deriving DecidableEq, Repr

/-- The pseudo-instructions of R161. -/
inductive Pseudo
  | start
  | stop
  | regSet (off : BitVec 8) (m : Word)
  | regClear (off : BitVec 8) (m : Word)
  | bringup (profile : BitVec 8) (pf cc : Word)
  deriving DecidableEq, Repr

/-- What a pseudo-instruction expands to (R161). -/
def pseudoExpand : Pseudo → List Instr
  | .start => [.start]
  | .stop => [.stop]
  | .regSet off m => [.regUpdateBits off m m]
  | .regClear off m => [.regUpdateBits off m 0#32]
  | .bringup p pf cc => [.init p, .buffersSetup pf cc]

/-- A register's name in the textual form (R160), or its offset as a number. -/
def asmReg (off : BitVec 8) : String :=
  match off.toNat with
  | 0x00 => "CS_A"
  | 0x04 => "FIFO_A"
  | 0x08 => "MODE_A"
  | 0x0C => "RXC_A"
  | 0x10 => "TXC_A"
  | 0x14 => "DREQ_A"
  | 0x18 => "INTEN_A"
  | 0x1C => "INTSTC_A"
  | 0x20 => "GRAY"
  | n => toString n

/-- A profile's name in the textual form (R160), or its number. -/
def asmProfile (p : BitVec 8) : String :=
  match p.toNat with
  | 0 => "default"
  | 1 => "slot-shifted"
  | 2 => "bit-clock-provider"
  | n => toString n

/-- A direction mask in the textual form (R160). -/
def asmDirs : Bool → Bool → String
  | true, true => "tx,rx"
  | true, false => "tx"
  | false, true => "rx"
  | false, false => "none"

/-- A command's textual form (R160); PERIOD_CALLBACK has none. -/
def asmText : Instr → Option String
  | .regRead off => some ("reg.read " ++ asmReg off)
  | .regWrite off v => some ("reg.write " ++ asmReg off ++ ", " ++ toString v.toNat)
  | .regUpdateBits off m v =>
    some ("reg.update " ++ asmReg off ++ ", " ++ toString m.toNat ++ ", " ++ toString v.toNat)
  | .resolve p => some ("resolve " ++ asmProfile p)
  | .clearRegisters => some "clear_regs"
  | .configure => some "configure"
  | .enable => some "enable"
  | .clearFifos tx rx => some ("clear_fifos " ++ asmDirs tx rx)
  | .primeTxFifo n => some ("prime_tx " ++ toString n.toNat)
  | .syncFifos tx rx => some ("sync_fifos " ++ asmDirs tx rx)
  | .dmaPrepare .rx => some "dma.prepare rx"
  | .dmaPrepare .tx => some "dma.prepare tx"
  | .dmaSubmit => some "dma.submit"
  | .dmaTerminate => some "dma.terminate"
  | .periodCallback => none
  | .init p => some ("init " ++ asmProfile p)
  | .buffersSetup pf cc => some ("buffers_setup " ++ toString pf.toNat ++ ", " ++ toString cc.toNat)
  | .stop => some "start_stop stop"
  | .start => some "start_stop start"
  | .exit => some "exit"
  | .waitCompletion => some "wait_completion"
  | .readBufIdx => some "read_buf_idx"

end Sys2Proof
end

