-- ==== Sys2Proof/Config.lean ====
section
/-! DEFINITION. What the spec leaves to the implementation or the environment: the register layout `P_REGMAP` (R13, R50 to R58),
the launch parameters `P_*` (R8), the kinds of input a step takes (R14, R15), and the free values behind them. -/

namespace Sys2Proof

/-! ## The register layout P_REGMAP (R13) -/

/-- A bit field of a register: its lowest bit and its width in bits (R10). -/
structure Field where
  lo : Nat
  width : Nat
  deriving DecidableEq, Repr

/-- The nine peripheral registers (R50). -/
inductive Reg
  | csA | fifoA | modeA | rxcA | txcA | dreqA | intenA | intstcA | gray
  deriving DecidableEq, Repr

/-- The fields of CS_A (R51). -/
structure CsFields where
  en : Field
  rxon : Field
  txon : Field
  txclr : Field
  rxclr : Field
  txthr : Field
  rxthr : Field
  dmaen : Field
  txsync : Field
  rxsync : Field
  txerr : Field
  rxerr : Field
  txw : Field
  rxr : Field
  txd : Field
  rxd : Field
  txe : Field
  rxf : Field
  rxsex : Field
  sync : Field
  stby : Field
  deriving DecidableEq, Repr

/-- The fields of MODE_A (R53). -/
structure ModeFields where
  fslen : Field
  flen : Field
  fsi : Field
  fsm : Field
  clki : Field
  clkm : Field
  ftxp : Field
  frxp : Field
  pdme : Field
  pdmn : Field
  clkDis : Field
  deriving DecidableEq, Repr

/-- The fields RXC_A and TXC_A share (R54). -/
structure FormatFields where
  ch2wid : Field
  ch2pos : Field
  ch2en : Field
  ch2wex : Field
  ch1wid : Field
  ch1pos : Field
  ch1en : Field
  ch1wex : Field
  deriving DecidableEq, Repr

/-- The fields of DREQ_A (R55). -/
structure DreqFields where
  rx : Field
  tx : Field
  rxPanic : Field
  txPanic : Field
  deriving DecidableEq, Repr

/-- The fields INTEN_A and INTSTC_A share (R56, R57). -/
structure IntFields where
  txw : Field
  rxr : Field
  txerr : Field
  rxerr : Field
  deriving DecidableEq, Repr

/-- `P_REGMAP` (R13): the nine register offsets and every field position of R50 to R58. -/
structure RegMap where
  csOff : Word
  fifoOff : Word
  modeOff : Word
  rxcOff : Word
  txcOff : Word
  dreqOff : Word
  intenOff : Word
  intstcOff : Word
  grayOff : Word
  cs : CsFields
  mode : ModeFields
  fmt : FormatFields
  dreq : DreqFields
  int : IntFields
  deriving DecidableEq, Repr

/-- CS_A of the default layout (R51). -/
def bcmCs : CsFields where
  en := ⟨0, 1⟩
  rxon := ⟨1, 1⟩
  txon := ⟨2, 1⟩
  txclr := ⟨3, 1⟩
  rxclr := ⟨4, 1⟩
  txthr := ⟨5, 2⟩
  rxthr := ⟨7, 2⟩
  dmaen := ⟨9, 1⟩
  txsync := ⟨13, 1⟩
  rxsync := ⟨14, 1⟩
  txerr := ⟨15, 1⟩
  rxerr := ⟨16, 1⟩
  txw := ⟨17, 1⟩
  rxr := ⟨18, 1⟩
  txd := ⟨19, 1⟩
  rxd := ⟨20, 1⟩
  txe := ⟨21, 1⟩
  rxf := ⟨22, 1⟩
  rxsex := ⟨23, 1⟩
  sync := ⟨24, 1⟩
  stby := ⟨25, 1⟩

/-- MODE_A of the default layout (R53). -/
def bcmMode : ModeFields where
  fslen := ⟨0, 10⟩
  flen := ⟨10, 10⟩
  fsi := ⟨20, 1⟩
  fsm := ⟨21, 1⟩
  clki := ⟨22, 1⟩
  clkm := ⟨23, 1⟩
  ftxp := ⟨24, 1⟩
  frxp := ⟨25, 1⟩
  pdme := ⟨26, 1⟩
  pdmn := ⟨27, 1⟩
  clkDis := ⟨28, 1⟩

/-- RXC_A and TXC_A of the default layout (R54). -/
def bcmFormat : FormatFields where
  ch2wid := ⟨0, 4⟩
  ch2pos := ⟨4, 10⟩
  ch2en := ⟨14, 1⟩
  ch2wex := ⟨15, 1⟩
  ch1wid := ⟨16, 4⟩
  ch1pos := ⟨20, 10⟩
  ch1en := ⟨30, 1⟩
  ch1wex := ⟨31, 1⟩

/-- DREQ_A of the default layout (R55). -/
def bcmDreq : DreqFields where
  rx := ⟨0, 7⟩
  tx := ⟨8, 7⟩
  rxPanic := ⟨16, 7⟩
  txPanic := ⟨24, 7⟩

/-- INTEN_A and INTSTC_A of the default layout (R56, R57). -/
def bcmInt : IntFields where
  txw := ⟨0, 1⟩
  rxr := ⟨1, 1⟩
  txerr := ⟨2, 1⟩
  rxerr := ⟨3, 1⟩

/-- The default instance of `P_REGMAP`: the BCM2835 PCM/I2S layout (R13, R50 to R58; the spec's general knowledge, G1). -/
def bcm2835 : RegMap where
  csOff := 0x00#32
  fifoOff := 0x04#32
  modeOff := 0x08#32
  rxcOff := 0x0C#32
  txcOff := 0x10#32
  dreqOff := 0x14#32
  intenOff := 0x18#32
  intstcOff := 0x1C#32
  grayOff := 0x20#32
  cs := bcmCs
  mode := bcmMode
  fmt := bcmFormat
  dreq := bcmDreq
  int := bcmInt

/-! ## The launch parameters (R8) -/

/-- `P_CALLBACK_DELIVERY` (R322). -/
inductive Delivery
  | exact | mayCoalesce
  deriving DecidableEq, Repr

/-- `P_UNKNOWN_PROFILE_POLICY` (R211). -/
inductive UnknownProfile
  | fallbackDefault | error
  deriving DecidableEq, Repr

/-- The FIFO level of each 2-bit threshold code: `P_RXR_LEVEL` and `P_TXW_LEVEL` (R8, R159). -/
structure Levels where
  l0 : Nat
  l1 : Nat
  l2 : Nat
  l3 : Nat
  deriving DecidableEq, Repr

/-- The parameters of R8. A run is launched with them and no step writes them (R15). -/
structure Params where
  /-- `P_REGMAP` -/
  regmap : RegMap
  /-- `P_BASE` -/
  base : Word
  /-- `P_BUS_BASE` -/
  busBase : Word
  /-- `P_FIFO_DEPTH` -/
  fifoDepth : Nat
  /-- `P_SAMPLE_RATE`, Hz -/
  sampleRate : Nat
  /-- `P_POS_DEFAULT` -/
  posDefault : Nat × Nat
  /-- `P_POS_SHIFTED` -/
  posShifted : Nat × Nat
  /-- `P_POS_BCP` -/
  posBcp : Nat × Nat
  /-- `P_RXTHR` -/
  rxThr : Nat
  /-- `P_TXTHR` -/
  txThr : Nat
  /-- `P_DREQ_RX` -/
  dreqRx : Nat
  /-- `P_DREQ_TX` -/
  dreqTx : Nat
  /-- `P_PANIC_RX` -/
  panicRx : Nat
  /-- `P_PANIC_TX` -/
  panicTx : Nat
  /-- `P_DMA_MAXBURST`, words -/
  maxBurst : Nat
  /-- `P_CLEAR_POLL_LIMIT`, status reads -/
  clearPollLimit : Nat
  /-- `P_SYNC_POLL_LIMIT`, status reads; `none` is infinity -/
  syncPollLimit : Option Nat
  /-- `P_MAX_BUFFER_BYTES` -/
  maxBufferBytes : Word
  /-- `P_CALLBACK_DIR` -/
  callbackDir : Dir
  /-- `P_CALLBACK_DELIVERY` -/
  delivery : Delivery
  /-- `P_UNKNOWN_PROFILE_POLICY` -/
  unknownProfile : UnknownProfile
  /-- `P_BUS_MAY_FAIL` -/
  busMayFail : Bool
  /-- `P_UPDATE_ALWAYS_WRITES` -/
  updateAlwaysWrites : Bool
  /-- `P_RELAY_ENABLED` -/
  relayEnabled : Bool
  /-- `P_CODEC_CLOCK` -/
  codecClock : Bool
  /-- `P_RXR_LEVEL` -/
  rxrLevel : Levels
  /-- `P_TXW_LEVEL` -/
  txwLevel : Levels
  deriving DecidableEq, Repr

/-- The parameters a run is launched with from `State.reset`: the spec's defaults (R8) and, for OPEN parameters, its vector
values (95_test_vectors.md section 0). DESIGN CHOICE, unsafe (log 3); the bases are PRESUMED and the level tables a DESIGN CHOICE (log 4). -/
def vectorParams : Params where
  regmap := bcm2835
  base := 0x20203000#32
  busBase := 0x7E203000#32
  fifoDepth := 64
  sampleRate := 48000
  posDefault := (0, 32)
  posShifted := (1, 33)
  posBcp := (0, 32)
  rxThr := 1
  txThr := 1
  dreqRx := 0x20
  dreqTx := 0x30
  panicRx := 0x30
  panicTx := 0x10
  maxBurst := 2
  clearPollLimit := 1000
  syncPollLimit := none
  maxBufferBytes := 65536#32
  callbackDir := .rx
  delivery := .exact
  unknownProfile := .fallbackDefault
  busMayFail := false
  updateAlwaysWrites := false
  relayEnabled := false
  codecClock := true
  rxrLevel := ⟨1, 16, 32, 64⟩
  txwLevel := ⟨0, 16, 32, 63⟩

/-! ## The kinds of input a step takes (R14, R15) -/

/-- The width of a consumer access: 1, 2 or 4 bytes (R109, R353). -/
inductive AccessSize
  | byte | half | word
  deriving DecidableEq, Repr, Inhabited

/-- A consumer data step: `MemRead(a, n)` or `MemWrite(a, n, v)` (R353). -/
inductive DataAccess
  | read (a : Word) (n : AccessSize)
  | write (a : Word) (n : AccessSize) (v : Word)
  deriving DecidableEq, Repr

/-- The registers `ctx.*` the host may observe (R46). -/
inductive CtxReg
  | state | initDone | resolved | profileId | bclkMaster | fsMaster | bclkRate | frameLen | fsLen | ch1Pos | ch2Pos
  | configured | clkRate | clkRateErr | regionVirt | regionPhys | regionSize | periodFrames | channelCount | periodLen
  | bufLen | rxBase | txBase | cvBase | geomValid | irqCount | bufIdx | notify | result | lastRead | consIdx
  | syncDiscards | syncPrev | syncPrevValid | syncIters | clearTimeouts | dmaErrors | relayEnabled
  deriving DecidableEq, Repr

/-- Which agent takes the next step, and which of its steps (R14, R370). -/
inductive Move
  /-- CTRL: one micro-operation of the current command. -/
  | ctrl
  /-- CONS: its current command. -/
  | cons
  /-- CONS: a data step (R353). -/
  | consData (acc : DataAccess)
  /-- IRQ: PERIOD_CALLBACK (R390). -/
  | irq
  /-- PCM: one coarse peripheral clock (R371). -/
  | pcmClock
  /-- PCM: one channel slot (R372). -/
  | slot
  /-- DMA_RX or DMA_TX: one beat (R380, R381). -/
  | beat (d : Dir)
  /-- DMA_RX or DMA_TX: quiescence (R383). -/
  | quiesce (d : Dir)
  /-- ENV: a channel error (R395). -/
  | envError (d : Dir)
  /-- ENV: INTSTC_A.TXW while CS_A.TXW reads 1 (R395). -/
  | envTxw
  /-- ENV: INTSTC_A.RXR while CS_A.RXR reads 1 (R395). -/
  | envRxr
  /-- The host observes a register (R46, R431). -/
  | hostRead (r : CtxReg)
  deriving DecidableEq, Repr, Inhabited

/-- The allocator's answer (R336). -/
inductive AllocAnswer
  | fail
  | ok (virt phys size : Word)
  deriving DecidableEq, Repr, Inhabited

/-! ## Free values. Nothing constrains them: each is applied to a counter of State (log 5), or to its operands (log 12). -/

namespace Config

/-- The n-th `draw()` no launch input fixes (R11). FREE VALUE (log 5). -/
opaque freeDraw : Nat → Word

/-- The n-th codec word `rx_word()` no launch input fixes (R374). FREE VALUE (log 5). -/
opaque freeRxWord : Nat → Word

/-- The n-th oracle answer no launch input fixes (R290, R192). FREE VALUE (log 5). -/
opaque freeAnswer : Nat → Bool

/-- The n-th allocator answer no launch input fixes (R336). FREE VALUE (log 5). -/
opaque freeAlloc : Nat → AllocAnswer

/-- Which agent moves where no launch input fixes it (R370). FREE VALUE (log 2). -/
opaque freeMove : Nat → Move

/-- `ctx.bclk_rate` where 64 x `P_SAMPLE_RATE` does not fit its 32 bits: the spec states no value. FREE VALUE (log 12). -/
opaque freeClockRate : Nat → Word

end Config

end Sys2Proof
end

