-- ==== Sys2Proof/Machine/Bits.lean ====
section
/-! DEFINITION. Bit fields of register words (R10) and the byte order of memory words (R100). -/

namespace Sys2Proof.Machine

/-- The mask of a field. -/
def fieldMask (f : Field) : Word := BitVec.ofNat 32 ((2 ^ f.width - 1) * 2 ^ f.lo)

/-- A field of a word, as an unsigned number (R10). -/
def fieldGet (f : Field) (v : Word) : Word := (v >>> f.lo) &&& BitVec.ofNat 32 (2 ^ f.width - 1)

/-- A value placed in a field, the bits that do not fit dropped. -/
def fieldPut (f : Field) (x : Word) : Word := (x &&& BitVec.ofNat 32 (2 ^ f.width - 1)) <<< f.lo

/-- A one-bit field of a word. -/
def fieldTest (f : Field) (v : Word) : Bool := v.getLsbD f.lo

/-- A one-bit field set to `b`, every other bit 0. -/
def fieldBit (f : Field) (b : Bool) : Word := (BitVec.ofBool b).setWidth 32 <<< f.lo

/-- Byte `i` of a word; byte 0 lies lowest (R100). -/
def byteOf (v : Word) (i : Nat) : Byte := v.extractLsb' (8 * i) 8

/-- The word of four bytes, `b0` at the lowest address (R100). -/
def wordOfBytes (b0 b1 b2 b3 : Byte) : Word := (b3 ++ b2 : BitVec 16) ++ (b1 ++ b0 : BitVec 16)

end Sys2Proof.Machine
end

