-- ==== Sys2Proof/Machine/State.lean ====
section
/-! DEFINITION. The state of the block (R30): block registers, peripheral registers, FIFOs, DMA channels, clock, memory, hidden
pipelines, command pointers and streams, fault set, refusal mark, traces, launch parameters and the inputs of the step; and what stops it. -/

namespace Sys2Proof.Machine

/-! ## Small vocabularies -/

/-- The Transfer Coordinator's states (R31). -/
inductive CoordState
  | unconfigured | configured | synchronizing | streaming | stopped
  deriving DecidableEq, Repr

/-- Result codes (R150). -/
inductive Code
  | ok | config | descriptor | alloc | submit | syncTimeout | unknownProfile | terminate | geometry
  deriving DecidableEq, Repr

/-- A channel slot (R77). -/
inductive Slot
  | ch1 | ch2
  deriving DecidableEq, Repr

/-- The phases of a DMA channel (R70, R71). -/
inductive Phase
  | idle | prepared | submitted | running | stopping | stopped
  deriving DecidableEq, Repr

/-- A FIFO clear pipeline: no clear pending, or 0 or 1 PCM clocks since the clear was asked for (R76). -/
inductive ClearStage
  | none | zero | one
  deriving DecidableEq, Repr

/-- The command a guard fault names (R414, F_ILLEGAL_STATE). -/
inductive Cmd
  | resolve | configure | enable | dmaPrepare | dmaSubmit | init | buffersSetup | start | exit
  deriving DecidableEq, Repr

/-- A FIFO_A access, as the info of F_FIFO_OFF (R414). -/
inductive FifoOp
  | read | write
  deriving DecidableEq, Repr

/-- The agent and the pc of a fault record (R414): CTRL at (k, m), CONS at k', or an agent that has no command pointer. -/
inductive Site
  | ctrl (k m : Nat)
  | cons (k : Nat)
  | pcm
  | dma (d : Dir)
  | host
  deriving DecidableEq, Repr

/-! ## What stops the machine -/

/-- The faults of R414, each with its record: the agent and pc (`Site`), and the info. After one no agent steps. -/
inductive Fault
  /-- F_ILLEGAL_COMMAND with the command word: raised by the decoder (R148, R149). Safe: the spec raises it. -/
  | illegalCommand (site : Site) (w : Word)
  /-- F_BAD_OFFSET with the command word (raised by the decoder, R148) or the offset (raised by a register command, R184). Safe: the spec raises it. -/
  | badOffset (site : Site) (info : Word)
  /-- F_TRUNCATED with the command word: raised by the decoder when operand words run past the stream (R148). Safe: the spec raises it. -/
  | truncated (site : Site) (w : Word)
  /-- F_ILLEGAL_STATE with the command: raised by the guards of R210, R215, R223, R291, R294, R338. Safe: the spec raises it. -/
  | illegalState (site : Site) (cmd : Cmd)
  /-- F_FIFO_OFF: raised by a FIFO_A access with EN = 0 or STBY = 0 (R187, R188). Safe: the spec raises it. -/
  | fifoOff (site : Site) (op : FifoOp)
  /-- F_TX_OVERFLOW with the word: raised by a FIFO_A write to a full TX FIFO (R188). Safe: the spec raises it, and says it errs toward unprovable (R414). -/
  | txOverflow (site : Site) (w : Word)
  /-- F_BUS with the register: raised by an access the oracle fails under `P_BUS_MAY_FAIL` (R192). Safe: the spec raises it. -/
  | bus (site : Site) (off : Word)
  /-- F_MEM_RANGE with the address: raised by a memory access outside the region (R102, R353). Safe: the spec raises it (log 13 on DMA beats). -/
  | memRange (site : Site) (addr : Word)
  /-- F_MISALIGNED with the address: raised by a consumer access not aligned to its size (R108, R353). Safe: the spec raises it. -/
  | misaligned (site : Site) (addr : Word)
  /-- F_UNWRITTEN with the register: raised by a host read of `ctx.last_read` or `ctx.cons_idx` before it was written (R41). Safe: the spec raises it. -/
  | unwritten (site : Site) (reg : CtxReg)
  /-- F_FRAME_UNMODELLED with MODE_A, RXC_A, TXC_A: raised by a SLOT step on a layout outside `layout_ok` (R372, R373). Safe: the spec raises it. -/
  | frameUnmodelled (site : Site) (mode rxc txc : Word)
  deriving DecidableEq, Repr

/-- The refusals of R416, by item, and the mark of an instruction with no meaning yet. -/
inductive Refusal
  /-- An instruction that has no meaning yet: raised by a refused arm of `exec` alone. Safe. -/
  | notModelled (mnemonic : String)
  /-- Item 1: a MODE_A write with FTXP, FRXP, PDME, PDMN or CLKI at 1 (R189). Raised by a register write. Safe: the spec refuses it. -/
  | modeUnmodelled (v : Word)
  /-- Item 2: a GRAY write (R191). Raised by a register write. Safe: the spec refuses it. -/
  | grayWrite (v : Word)
  /-- Item 3: a launch with `P_RELAY_ENABLED` (R18). Raised by every step. Safe: the spec refuses it. -/
  | relayLaunch
  /-- Item 4: an `ok` allocator answer that breaks R336. Raised by INIT. Safe: the spec refuses it. -/
  | allocAnswer (virt phys size : Word)
  /-- Item 5: a launch whose slot positions break R212. Raised by every step. Safe: the spec refuses it. -/
  | positionLaunch
  /-- Item 6: a launch whose levels, threshold codes or FIFO depth are out of range (R221, R416). Raised by every step. Safe: the spec refuses it. -/
  | levelLaunch
  /-- Item 7: a launch with a poll budget of 0 (R416). Raised by every step. Safe: the spec refuses it. -/
  | pollLaunch
  deriving DecidableEq, Repr

/-! ## Block registers: the Device Context (R31 to R45) -/

/-- The resolved profile registers (R33). -/
structure Profile where
  profileId : BitVec 8
  bclkMaster : Bool
  fsMaster : Bool
  bclkRate : Word
  frameLen : BitVec 10
  fsLen : BitVec 10
  ch1Pos : BitVec 9
  ch2Pos : BitVec 9
  deriving DecidableEq, Repr

/-- The region registers (R36). -/
structure Region where
  virt : Word
  phys : Word
  size : Word
  deriving DecidableEq, Repr

/-- The geometry registers (R37, R103). -/
structure Geometry where
  periodFrames : Word
  channelCount : Word
  periodLen : Word
  bufLen : Word
  rxBase : Word
  txBase : Word
  cvBase : Word
  deriving DecidableEq, Repr

/-- The synchronizer registers (R42). -/
structure SyncRegs where
  discards : Word
  prev : Word
  prevValid : Bool
  iters : Word
  deriving DecidableEq, Repr

/-- The Device Context `ctx` (R31 to R45). `lastRead` and `consIdx` hold no value until first written: the spec's own state (R41, R80; log 11). -/
structure Ctx where
  state : CoordState
  initDone : Bool
  resolved : Bool
  profile : Profile
  configured : Bool
  clkRate : Word
  clkRateErr : Bool
  region : Region
  geom : Geometry
  geomValid : Bool
  irqCount : Word
  bufIdx : Bool
  notify : Bool
  result : Code
  lastRead : Option Word
  consIdx : Option Bool
  sync : SyncRegs
  clearTimeouts : Word
  dmaErrors : Word
  relayEnabled : Bool
  deriving DecidableEq, Repr

/-! ## Peripheral registers and FIFOs (R50 to R61) -/

/-- The stored fields of CS_A (R51, R185, R186). -/
structure CsA where
  en : Bool
  rxon : Bool
  txon : Bool
  txthr : BitVec 2
  rxthr : BitVec 2
  dmaen : Bool
  txerr : Bool
  rxerr : Bool
  rxsex : Bool
  stby : Bool
  deriving DecidableEq, Repr

/-- The peripheral registers (R50 to R57). FIFO_A and GRAY hold nothing (R52, R58). Reserved bits are stored as 0 (R59). -/
structure Peripheral where
  cs : CsA
  mode : Word
  rxc : Word
  txc : Word
  dreq : Word
  inten : Word
  intstc : Word
  deriving DecidableEq, Repr

/-- A word of the RX FIFO with the ghost tag of the slot it came from (R257, R372). -/
structure RxEntry where
  word : Word
  slot : Slot
  deriving DecidableEq, Repr

/-- The FIFOs, oldest word first (R61). -/
structure Fifos where
  tx : List Word
  rx : List RxEntry
  deriving DecidableEq, Repr

/-! ## DMA channels (R70) and hidden pipelines (R75 to R77) -/

/-- A slave configuration (R70, R292). -/
structure SlaveCfg where
  addr : Word
  width : Nat
  maxBurst : Nat
  dir : Dir
  deriving DecidableEq, Repr

/-- A descriptor (R70, R293). -/
structure Desc where
  base : Word
  bufLen : Word
  periodLen : Word
  cb : Bool
  deriving DecidableEq, Repr

/-- A DMA channel (R70). -/
structure Channel where
  phase : Phase
  slave : Option SlaveCfg
  desc : Option Desc
  pos : Word
  pending : Nat
  err : Bool
  deriving DecidableEq, Repr

/-- The hidden pipelines (R75 to R77). -/
structure Pipe where
  syncW : Bool
  syncR : Bool
  syncCnt : Nat
  clrTx : ClearStage
  clrRx : ClearStage
  slotPhase : Slot
  deriving DecidableEq, Repr

/-! ## Memory (R100) -/

/-- Memory: the bytes that differ from what an unlisted address reads as, by strictly rising address. -/
abbrev Mem := List Host.Cell

/-! ## Traces (R79) -/

/-- An `Ext.*` call with its arguments and its answer (R79, R290, R216, R336). -/
inductive Event
  | alloc (n : Word) (answer : AllocAnswer)
  | clkSetRate (rate : Word) (ok : Bool)
  | clkEnable (on : Bool)
  | slaveConfig (d : Dir) (cfg : SlaveCfg) (ok : Bool)
  | prepCyclic (d : Dir) (desc : Desc) (ok : Bool)
  | submit (d : Dir) (ok : Bool)
  | issuePending (d : Dir)
  | terminateAsync (d : Dir) (ok : Bool)
  | synchronize (d : Dir)
  deriving DecidableEq, Repr

/-- The observation traces, which no step reads (R79). -/
structure Traces where
  txLine : List (Slot × Word)
  discardLog : List Word
  events : List Event
  deriving DecidableEq, Repr

/-! ## The controller, the consumer port and the inputs of a step -/

/-- One item of a command's micro-operation sequence (R12, R47). Items marked QUIET compute on block registers only and are
merged with the next access, or, where no access follows, with the last one (log 1). -/
inductive Micro
  /-- REG_READ's access (R180). -/
  | readReg (r : Reg)
  /-- One `RegWrite` (R181, R214, R215). -/
  | writeReg (r : Reg) (v : Word)
  /-- The read half of `UpdateBits` (R182). -/
  | updRead (r : Reg) (mask val : Word)
  /-- The conditional write half of `UpdateBits`, holding what the read half read (R182). -/
  | updWrite (r : Reg) (old mask val : Word)
  /-- `Ext.ClkSetRate` (R216). -/
  | clkSetRate
  /-- `Ext.ClkEnable` (R216). -/
  | clkEnable
  /-- `Ext.Alloc` (R331, R336). -/
  | alloc
  /-- `Ext.SlaveConfig` (R291). -/
  | slaveConfig (d : Dir)
  /-- `Ext.PrepCyclic` (R291). -/
  | prepCyclic (d : Dir)
  /-- `Ext.Submit` (R294); `unwind` when BUFFERS_SETUP runs it (R332). -/
  | submit (d : Dir) (unwind : Bool)
  /-- `Ext.IssuePending` (R294). -/
  | issue (d : Dir)
  /-- `Ext.TerminateAsync` of TEARDOWN (R295). -/
  | terminate (d : Dir)
  /-- `Ext.Synchronize` of TEARDOWN (R290, R295): holds. -/
  | synchronize (d : Dir)
  /-- The pushes of R253 still to do; QUIET at 0. -/
  | prime (n : Nat)
  /-- CLEAR_FIFOS' first read, "captures current enable state" (R250). -/
  | clearSave (tx rx : Bool)
  /-- CLEAR_FIFOS' read of the current SYNC echo (R250). -/
  | clearEcho
  /-- CLEAR_FIFOS' poll with `n` reads left, `s` the echo it waits to change (R250); QUIET at 0, the timeout of R252. -/
  | clearPoll (s : Word) (n : Nat)
  /-- SYNC_FIFOS' status read (R254); `inStart` when START runs the loop (R340). -/
  | syncStatus (inStart : Bool)
  /-- SYNC_FIFOS' zero push (R254). -/
  | syncPush
  /-- SYNC_FIFOS' pop (R254). -/
  | syncPop (inStart : Bool)
  /-- QUIET: SYNC_FIFOS' clearing of its registers (R254). -/
  | syncInit
  /-- QUIET: SYNC_FIFOS' count of a status read (R254). -/
  | countRead
  /-- QUIET: SYNC_FIFOS' count and record of the word popped (R254). -/
  | countPop (w : Word)
  /-- QUIET: SYNC_FIFOS keeps the word popped for the next comparison (R254). -/
  | retain (w : Word)
  /-- QUIET: CONFIGURE's record of the clock rate asked for, and of whether it was refused (R215, R216). -/
  | noteRate (ok : Bool)
  /-- QUIET: the guard of CONFIGURE (R215). -/
  | guardResolved
  /-- QUIET: the guard of ENABLE (R223). -/
  | guardConfigured
  /-- QUIET: the guard of DMA_PREPARE (R291). -/
  | guardPrepare (d : Dir)
  /-- QUIET: the guard of DMA_SUBMIT (R294). -/
  | guardSubmit
  /-- QUIET: `ctx.configured <- b` (R214, R215). -/
  | setConfigured (b : Bool)
  /-- QUIET: `ctx.state <- c` (R332, R340 to R342). -/
  | setCoord (c : CoordState)
  /-- QUIET: `return Ok` or `return Err(code)` (R11). -/
  | ret (c : Code)
  /-- QUIET: return the first failure of DMA_TERMINATE (R296). -/
  | retFirst
  deriving DecidableEq, Repr

/-- The controller: its stream (R15, R47), `pc_ctrl = (k, m)` (R47), and what the current command has still to do (log 1). -/
structure Ctrl where
  stream : List Word
  k : Nat
  m : Nat
  todo : List Micro
  first : Code
  deriving DecidableEq, Repr

/-- The consumer port: its stream and `pc_cons` (R15, R48). -/
structure Cons where
  stream : List Word
  k : Nat
  deriving DecidableEq, Repr

/-- The inputs of the step that the run's launch fixes (R11, R15); where a list is empty, the free value of Config at `tick` (logs 2, 5). -/
structure Inputs where
  moves : List Move
  answers : List Bool
  allocs : List AllocAnswer
  rxWords : List Word
  draws : List Word
  tick : Nat
  deriving DecidableEq, Repr

/-! ## The state (R30) -/

/-- The model's state (R30), with the launch parameters and inputs of R15. -/
structure State where
  params : Params
  ctx : Ctx
  pr : Peripheral
  fifo : Fifos
  dmaRx : Channel
  dmaTx : Channel
  clkEnabled : Bool
  mem : Mem
  pipe : Pipe
  ctrl : Ctrl
  cons : Cons
  faults : List Fault
  refused : Option Refusal
  traces : Traces
  inputs : Inputs
  deriving DecidableEq, Repr

/-! ## Reset (R80, R81, R450) -/

/-- The Device Context at bind time (R80). -/
def resetCtx : Ctx where
  state := .unconfigured
  initDone := false
  resolved := false
  profile := ⟨0#8, false, false, 0#32, 0#10, 0#10, 0#9, 0#9⟩
  configured := false
  clkRate := 0#32
  clkRateErr := false
  region := ⟨0#32, 0#32, 0#32⟩
  geom := ⟨0#32, 0#32, 0#32, 0#32, 0#32, 0#32, 0#32⟩
  geomValid := false
  irqCount := 0#32
  bufIdx := false
  notify := false
  result := .ok
  lastRead := none
  consIdx := none
  sync := ⟨0#32, 0#32, false, 0#32⟩
  clearTimeouts := 0#32
  dmaErrors := 0#32
  relayEnabled := false

/-- The peripheral at launch: P_LAUNCH_CLEAN (R81) fixes EN, RXON, TXON and DMAEN; the other values are a DESIGN CHOICE, unsafe (log 6). -/
def resetPeripheral : Peripheral where
  cs := ⟨false, false, false, 0#2, 0#2, false, false, false, false, false⟩
  mode := 0#32
  rxc := 0#32
  txc := 0#32
  dreq := 0#32
  inten := 0#32
  intstc := 0#32

/-- A DMA channel at bind time (R80). -/
def resetChannel : Channel := ⟨.idle, none, none, 0#32, 0, false⟩

/-- The machine right after its reset: the Device Context's creation (R80, R450), the peripheral under P_LAUNCH_CLEAN (R81), the
streams empty (log 8), the launch parameters of `vectorParams` (log 3). -/
def State.reset : State where
  params := vectorParams
  ctx := resetCtx
  pr := resetPeripheral
  fifo := ⟨[], []⟩
  dmaRx := resetChannel
  dmaTx := resetChannel
  clkEnabled := false
  mem := []
  pipe := ⟨false, false, 2, .none, .none, .ch1⟩
  ctrl := ⟨[], 0, 0, [], .ok⟩
  cons := ⟨[], 0⟩
  faults := []
  refused := none
  traces := ⟨[], [], []⟩
  inputs := ⟨[], [], [], [], [], 0⟩

end Sys2Proof.Machine
end

