-- ==== Sys2Proof/Machine/Flags.lean ====
section
/-! DEFINITION. Every flag the spec computes: the FIFO-level flags of CS_A (R185), the interrupt line (R78), the clock and frame
conditions (R74), the frame layout (R373), the geometry check (R337). -/

namespace Sys2Proof.Machine

/-- The level of a threshold code (R159). -/
def levelOf (l : Levels) (code : BitVec 2) : Nat :=
  match code.toNat with
  | 0 => l.l0
  | 1 => l.l1
  | 2 => l.l2
  | _ => l.l3

/-! ## The FIFO-level flags of CS_A (R51, R185) -/

/-- CS_A.TXW. -/
def flagTxw (s : State) : Bool := s.fifo.tx.length ≤ levelOf s.params.txwLevel s.pr.cs.txthr

/-- CS_A.RXR. -/
def flagRxr (s : State) : Bool := s.fifo.rx.length ≥ levelOf s.params.rxrLevel s.pr.cs.rxthr

/-- CS_A.TXD. -/
def flagTxd (s : State) : Bool := s.fifo.tx.length < s.params.fifoDepth

/-- CS_A.RXD. -/
def flagRxd (s : State) : Bool := 0 < s.fifo.rx.length

/-- CS_A.TXE. -/
def flagTxe (s : State) : Bool := s.fifo.tx.length = 0

/-- CS_A.RXF. -/
def flagRxf (s : State) : Bool := s.fifo.rx.length = s.params.fifoDepth

/-! ## Interrupt line, clocks, frame layout -/

/-- `PIPE.i2s_irq`, the peripheral's interrupt line, which no step reads (R78, R392). -/
def i2sIrq (s : State) : Bool := s.pr.intstc &&& s.pr.inten != 0#32

/-- `clock_running` (R74, R376). -/
def clockRunning (s : State) : Bool :=
  !fieldTest s.params.regmap.mode.clkDis s.pr.mode &&
    (if fieldTest s.params.regmap.mode.clkm s.pr.mode then s.params.codecClock else s.clkEnabled)

/-- `frame_running` (R74, R376). -/
def frameRunning (s : State) : Bool :=
  clockRunning s && (!fieldTest s.params.regmap.mode.fsm s.pr.mode || s.params.codecClock)

/-- A format register of two 32-bit slots that fill the frame: item 2 of `layout_ok` (R373). -/
def formatOk (f : FormatFields) (c : Word) : Bool :=
  fieldTest f.ch1en c && fieldTest f.ch2en c &&
    fieldTest f.ch1wex c && fieldGet f.ch1wid c == 8#32 &&
    fieldTest f.ch2wex c && fieldGet f.ch2wid c == 8#32 &&
    (fieldGet f.ch1pos c).toNat ≤ 31 && (fieldGet f.ch2pos c).toNat == (fieldGet f.ch1pos c).toNat + 32

/-- `layout_ok` (R373). -/
def layoutOk (s : State) : Bool :=
  fieldGet s.params.regmap.mode.flen s.pr.mode == 63#32 &&
    (!s.pr.cs.txon || formatOk s.params.regmap.fmt s.pr.txc) &&
    (!s.pr.cs.rxon || formatOk s.params.regmap.fmt s.pr.rxc)

/-! ## The geometry check (R337) -/

/-- `period_len` in exact arithmetic (R103, R337). -/
def periodBytes (pf cc : Word) : Nat := pf.toNat * cc.toNat * 4

/-- `total`, the bytes the layout needs (R103, R337). -/
def layoutBytes (pf cc : Word) : Nat := 2 * (2 * periodBytes pf cc) + 8

/-- The geometry is valid: R337's check does not return E_GEOMETRY. -/
def geometryOk (pf cc size : Word) : Bool :=
  pf != 0#32 && cc != 0#32 && decide (layoutBytes pf cc ≤ size.toNat)

end Sys2Proof.Machine
end

