-- ==== Sys2Proof/Machine/Operands.lean ====
section
/-! DEFINITION. Every operand form: register offsets (R184), profile bytes and the profile table (R210 to R212), direction masks (R250,
R254), the register values the configurator writes (R217 to R221), buffer geometry and addresses (R101, R103, R105), descriptors (R291). -/

namespace Sys2Proof.Machine

/-! ## Registers by offset (R50, R184) -/

/-- The byte offset of a register in the layout (R50). -/
def regOffset (m : RegMap) : Reg → Word
  | .csA => m.csOff
  | .fifoA => m.fifoOff
  | .modeA => m.modeOff
  | .rxcA => m.rxcOff
  | .txcA => m.txcOff
  | .dreqA => m.dreqOff
  | .intenA => m.intenOff
  | .intstcA => m.intstcOff
  | .gray => m.grayOff

/-- Every register (R50). -/
def allRegs : List Reg := [.csA, .fifoA, .modeA, .rxcA, .txcA, .dreqA, .intenA, .intstcA, .gray]

/-- The register at an offset; none for an offset the block does not decode (R184). -/
def regAt (m : RegMap) (off : Word) : Option Reg := allRegs.find? (fun r => regOffset m r == off)

/-- The CPU address of a register: `P_BASE` and its offset (R50, R101). -/
def regCpuAddr (p : Params) (r : Reg) : Word := p.base + regOffset p.regmap r

/-- The register at a CPU address; none for an address that is not one of the register space (R101). -/
def regAtCpu (p : Params) (a : Word) : Option Reg := allRegs.find? (fun r => regCpuAddr p r == a)

/-- The bus address at which the DMA reaches FIFO_A (R101, R292). -/
def fifoBusAddr (p : Params) : Word := p.busBase + p.regmap.fifoOff

/-! ## Direction masks -/

/-- The CS_A enable bits of a direction mask: TXON, RXON (R250, R254). -/
def enableMask (c : CsFields) (tx rx : Bool) : Word :=
  (if tx then fieldMask c.txon else 0#32) ||| (if rx then fieldMask c.rxon else 0#32)

/-- The CS_A clear bits of a direction mask: TXCLR, RXCLR (R250). -/
def clearMask (c : CsFields) (tx rx : Bool) : Word :=
  (if tx then fieldMask c.txclr else 0#32) ||| (if rx then fieldMask c.rxclr else 0#32)

/-! ## Profiles (R210 to R212) -/

/-- The profile id of a profile byte, or none under policy `error` (R210, R211). -/
def profileIdOf (p : Params) (b : BitVec 8) : Option (BitVec 8) :=
  if b.toNat < 3 then some b
  else
    match p.unknownProfile with
    | .fallbackDefault => some 0#8
    | .error => none

/-- 64 x `P_SAMPLE_RATE` in the 32 bits of `ctx.bclk_rate` (R212, R33); a free value where it does not fit (log 12). -/
def bitClockRate (p : Params) : Word :=
  if 64 * p.sampleRate < 2 ^ 32 then BitVec.ofNat 32 (64 * p.sampleRate) else Config.freeClockRate p.sampleRate

/-- A slave profile's bundle (R212). -/
def slaveBundle (id : BitVec 8) (pos : Nat × Nat) : Profile where
  profileId := id
  bclkMaster := false
  fsMaster := false
  bclkRate := 0#32
  frameLen := 64#10
  fsLen := 32#10
  ch1Pos := BitVec.ofNat 9 pos.1
  ch2Pos := BitVec.ofNat 9 pos.2

/-- `PROFILE[id]`, the profile table (R212). -/
def profileBundle (p : Params) (id : BitVec 8) : Profile :=
  match id.toNat with
  | 0 => slaveBundle 0#8 p.posDefault
  | 1 => slaveBundle 1#8 p.posShifted
  | _ =>
    { profileId := 2#8
      bclkMaster := true
      fsMaster := true
      bclkRate := bitClockRate p
      frameLen := 64#10
      fsLen := 32#10
      ch1Pos := BitVec.ofNat 9 p.posBcp.1
      ch2Pos := BitVec.ofNat 9 p.posBcp.2 }

/-! ## The values CONFIGURE writes -/

/-- `MODEVAL(ctx)` (R217). -/
def modeVal (m : ModeFields) (p : Profile) : Word :=
  fieldPut m.flen ((p.frameLen - 1#10).setWidth 32) ||| fieldPut m.fslen (p.fsLen.setWidth 32) |||
    fieldBit m.fsi true ||| fieldBit m.fsm (!p.fsMaster) ||| fieldBit m.clkm (!p.bclkMaster)

/-- `FMTVAL(ctx)` (R218). -/
def formatVal (f : FormatFields) (p : Profile) : Word :=
  fieldBit f.ch1wex true ||| fieldBit f.ch1en true ||| fieldPut f.ch1pos (p.ch1Pos.setWidth 32) ||| fieldPut f.ch1wid 8#32 |||
    fieldBit f.ch2wex true ||| fieldBit f.ch2en true ||| fieldPut f.ch2pos (p.ch2Pos.setWidth 32) ||| fieldPut f.ch2wid 8#32

/-- The mask of CONFIGURE's CS_A update: RXTHR, TXTHR, DMAEN (R220). -/
def thresholdMask (c : CsFields) : Word := fieldMask c.rxthr ||| fieldMask c.txthr ||| fieldMask c.dmaen

/-- The value of CONFIGURE's CS_A update (R220). -/
def thresholdVal (c : CsFields) (p : Params) : Word :=
  fieldPut c.rxthr (BitVec.ofNat 32 p.rxThr) ||| fieldPut c.txthr (BitVec.ofNat 32 p.txThr) ||| fieldBit c.dmaen true

/-- `DREQVAL` (R221). -/
def dreqVal (d : DreqFields) (p : Params) : Word :=
  fieldPut d.txPanic (BitVec.ofNat 32 p.panicTx) ||| fieldPut d.rxPanic (BitVec.ofNat 32 p.panicRx) |||
    fieldPut d.tx (BitVec.ofNat 32 p.dreqTx) ||| fieldPut d.rx (BitVec.ofNat 32 p.dreqRx)

/-! ## Buffer geometry and addresses -/

/-- The geometry registers of a region base and `(pf, cc)` (R103, R332). -/
def geometryOf (base pf cc : Word) : Geometry where
  periodFrames := pf
  channelCount := cc
  periodLen := pf * cc * 4#32
  bufLen := 2#32 * (pf * cc * 4#32)
  rxBase := base
  txBase := base + 2#32 * (pf * cc * 4#32)
  cvBase := base + 2#32 * (pf * cc * 4#32) + 2#32 * (pf * cc * 4#32)

/-- A direction's buffer base (R103, R291). -/
def bufferBase (g : Geometry) : Dir → Word
  | .rx => g.rxBase
  | .tx => g.txBase

/-- The start of half `h` of a direction's buffer (R105). -/
def halfBase (g : Geometry) (d : Dir) (h : Bool) : Word :=
  bufferBase g d + (if h then g.periodLen else 0#32)

/-- The address of frame `f`, channel `c` in half `h` (R105). -/
def sampleAddr (g : Geometry) (d : Dir) (h : Bool) (f c : Word) : Word :=
  halfBase g d h + (f * g.channelCount + c) * 4#32

/-- The address of the `gate_out` scratch word (R104). -/
def gateOutAddr (g : Geometry) : Word := g.cvBase

/-- The address of the `gate_in` scratch word (R104). -/
def gateInAddr (g : Geometry) : Word := g.cvBase + 4#32

/-- The CPU address of a bus address in the region (R101, R112). -/
def cpuAddr (r : Region) (p : Word) : Word := r.virt + (p - r.phys)

/-- The bytes of an access (R109). -/
def sizeBytes : AccessSize → Nat
  | .byte => 1
  | .half => 2
  | .word => 4

/-- The slave configuration of DMA_PREPARE (R291, R292). -/
def slaveCfgOf (p : Params) (d : Dir) : SlaveCfg where
  addr := fifoBusAddr p
  width := 4
  maxBurst := p.maxBurst
  dir := d

/-- The descriptor of DMA_PREPARE (R291, R293). -/
def descOf (p : Params) (g : Geometry) (d : Dir) : Desc where
  base := bufferBase g d
  bufLen := g.bufLen
  periodLen := g.periodLen
  cb := d == p.callbackDir

/-- The number of a coordinator state (R31). -/
def coordNumber : CoordState → BitVec 3
  | .unconfigured => 0#3
  | .configured => 1#3
  | .synchronizing => 2#3
  | .streaming => 3#3
  | .stopped => 4#3

/-- The number of a result code (R150). -/
def codeNumber : Code → BitVec 8
  | .ok => 0#8
  | .config => 1#8
  | .descriptor => 2#8
  | .alloc => 3#8
  | .submit => 4#8
  | .syncTimeout => 5#8
  | .unknownProfile => 6#8
  | .terminate => 7#8
  | .geometry => 8#8

end Sys2Proof.Machine
end

