-- ==== Sys2Proof/Machine/Ops.lean ====
section
/-! DEFINITION. The named operations over the state: setters, inputs of the step, register accesses (R184 to R192), memory (R100 to R109),
DMA channels and external calls (R290), and taking the completion interrupt (R320, R422). -/

namespace Sys2Proof.Machine

/-! ## One setter per part of the state -/

/-- Replaces the Device Context. -/
def State.setCtx (s : State) (c : Ctx) : State := { s with ctx := c }

/-- Replaces the peripheral registers. -/
def State.setPr (s : State) (p : Peripheral) : State := { s with pr := p }

/-- Replaces the FIFOs. -/
def State.setFifo (s : State) (f : Fifos) : State := { s with fifo := f }

/-- Replaces channel RX. -/
def State.setDmaRx (s : State) (c : Channel) : State := { s with dmaRx := c }

/-- Replaces channel TX. -/
def State.setDmaTx (s : State) (c : Channel) : State := { s with dmaTx := c }

/-- Replaces the clock generator's output flag (R74). -/
def State.setClk (s : State) (b : Bool) : State := { s with clkEnabled := b }

/-- Replaces memory. -/
def State.setMem (s : State) (m : Mem) : State := { s with mem := m }

/-- Replaces the hidden pipelines. -/
def State.setPipe (s : State) (p : Pipe) : State := { s with pipe := p }

/-- Replaces the controller. -/
def State.setCtrl (s : State) (c : Ctrl) : State := { s with ctrl := c }

/-- Replaces the consumer port. -/
def State.setCons (s : State) (c : Cons) : State := { s with cons := c }

/-- Replaces the traces. -/
def State.setTraces (s : State) (t : Traces) : State := { s with traces := t }

/-- Replaces the inputs of the step. -/
def State.setInputs (s : State) (i : Inputs) : State := { s with inputs := i }

/-- The channel of a direction (R70). -/
def State.chan (s : State) : Dir → Channel
  | .rx => s.dmaRx
  | .tx => s.dmaTx

/-- Replaces the channel of a direction. -/
def State.setChan (s : State) (d : Dir) (c : Channel) : State :=
  match d with
  | .rx => s.setDmaRx c
  | .tx => s.setDmaTx c

/-- Where CTRL is, for a fault record (R414, R47). -/
def ctrlSite (s : State) : Site := .ctrl s.ctrl.k s.ctrl.m

/-- What an access of one micro-operation answers: a value and the state after it, a fault, or a refusal. -/
inductive Res (α : Type) where
  | ok (a : α) (s : State)
  | fault (f : Fault)
  | refused (r : Refusal)
  deriving Repr

/-! ## Inputs of the step (R11, R15): the launch's list, then the free value at `tick` (logs 2, 5) -/

/-- `draw()` (R11), and the inputs left. -/
def drawOf (i : Inputs) : Word × Inputs :=
  match i.draws with
  | w :: ws => (w, { i with draws := ws })
  | [] => (Config.freeDraw i.tick, { i with tick := i.tick + 1 })

/-- `rx_word()` (R374), and the inputs left. -/
def rxWordOf (i : Inputs) : Word × Inputs :=
  match i.rxWords with
  | w :: ws => (w, { i with rxWords := ws })
  | [] => (Config.freeRxWord i.tick, { i with tick := i.tick + 1 })

/-- An oracle answer (R290, R192), and the inputs left. -/
def answerOf (i : Inputs) : Bool × Inputs :=
  match i.answers with
  | b :: bs => (b, { i with answers := bs })
  | [] => (Config.freeAnswer i.tick, { i with tick := i.tick + 1 })

/-- The allocator's answer (R336), and the inputs left. -/
def allocOf (i : Inputs) : AllocAnswer × Inputs :=
  match i.allocs with
  | a :: as => (a, { i with allocs := as })
  | [] => (Config.freeAlloc i.tick, { i with tick := i.tick + 1 })

/-- The agent that moves (R370), and the inputs left. -/
def moveOf (i : Inputs) : Move × Inputs :=
  match i.moves with
  | m :: ms => (m, { i with moves := ms })
  | [] => (Config.freeMove i.tick, { i with tick := i.tick + 1 })

/-! ## Register reads (R185, R187, R189 to R191) -/

/-- The CS_A bits that are neither draws nor reserved (R185). -/
def csKnown (c : CsFields) : Word :=
  fieldMask c.en ||| fieldMask c.rxon ||| fieldMask c.txon ||| fieldMask c.txclr ||| fieldMask c.rxclr |||
    fieldMask c.txthr ||| fieldMask c.rxthr ||| fieldMask c.dmaen ||| fieldMask c.txerr ||| fieldMask c.rxerr |||
    fieldMask c.txw ||| fieldMask c.rxr ||| fieldMask c.txd ||| fieldMask c.rxd ||| fieldMask c.txe ||| fieldMask c.rxf |||
    fieldMask c.rxsex ||| fieldMask c.sync ||| fieldMask c.stby

/-- The bits of MODE_A that are not reserved (R53, R59). -/
def modeKnown (m : ModeFields) : Word :=
  fieldMask m.fslen ||| fieldMask m.flen ||| fieldMask m.fsi ||| fieldMask m.fsm ||| fieldMask m.clki ||| fieldMask m.clkm |||
    fieldMask m.ftxp ||| fieldMask m.frxp ||| fieldMask m.pdme ||| fieldMask m.pdmn ||| fieldMask m.clkDis

/-- The bits of RXC_A and TXC_A that are not reserved (R54, R59). -/
def formatKnown (f : FormatFields) : Word :=
  fieldMask f.ch2wid ||| fieldMask f.ch2pos ||| fieldMask f.ch2en ||| fieldMask f.ch2wex ||| fieldMask f.ch1wid |||
    fieldMask f.ch1pos ||| fieldMask f.ch1en ||| fieldMask f.ch1wex

/-- The bits of DREQ_A that are not reserved (R55, R59). -/
def dreqKnown (d : DreqFields) : Word :=
  fieldMask d.rx ||| fieldMask d.tx ||| fieldMask d.rxPanic ||| fieldMask d.txPanic

/-- The bits of INTEN_A and INTSTC_A that are not reserved (R56, R57, R59). -/
def intKnown (f : IntFields) : Word := fieldMask f.txw ||| fieldMask f.rxr ||| fieldMask f.txerr ||| fieldMask f.rxerr

/-- What a read of CS_A returns, `d` the draw in its reserved and frame-sync bits (R185). -/
def csValue (s : State) (d : Word) : Word :=
  let c := s.params.regmap.cs
  fieldBit c.en s.pr.cs.en ||| fieldBit c.rxon s.pr.cs.rxon ||| fieldBit c.txon s.pr.cs.txon |||
    fieldPut c.txthr (s.pr.cs.txthr.setWidth 32) ||| fieldPut c.rxthr (s.pr.cs.rxthr.setWidth 32) |||
    fieldBit c.dmaen s.pr.cs.dmaen ||| fieldBit c.txerr s.pr.cs.txerr ||| fieldBit c.rxerr s.pr.cs.rxerr |||
    fieldBit c.txw (flagTxw s) ||| fieldBit c.rxr (flagRxr s) ||| fieldBit c.txd (flagTxd s) ||| fieldBit c.rxd (flagRxd s) |||
    fieldBit c.txe (flagTxe s) ||| fieldBit c.rxf (flagRxf s) ||| fieldBit c.rxsex s.pr.cs.rxsex |||
    fieldBit c.sync s.pipe.syncR ||| fieldBit c.stby s.pr.cs.stby ||| (d &&& ~~~ csKnown c)

/-- What a read of a plain register returns: its stored bits, a draw in its reserved ones (R59, R189, R190). -/
def plainValue (known stored d : Word) : Word := (stored &&& known) ||| (d &&& ~~~ known)

/-- FIFO_A may be accessed: the interface is enabled and out of standby (R187, R188, R444). -/
def fifoOn (s : State) : Bool := s.pr.cs.stby && s.pr.cs.en

/-- An RX FIFO error: CS_A.RXERR and INTSTC_A.RXERR set (R187, R372). -/
def setRxErr (s : State) : State :=
  s.setPr { s.pr with cs := { s.pr.cs with rxerr := true }, intstc := s.pr.intstc ||| fieldMask s.params.regmap.int.rxerr }

/-- A TX FIFO error: CS_A.TXERR and INTSTC_A.TXERR set (R372). -/
def setTxErr (s : State) : State :=
  s.setPr { s.pr with cs := { s.pr.cs with txerr := true }, intstc := s.pr.intstc ||| fieldMask s.params.regmap.int.txerr }

/-- A FIFO_A read: the pop of R187. -/
def fifoPop (s : State) : Res Word :=
  if fifoOn s then
    match s.fifo.rx with
    | e :: rest => .ok e.word (s.setFifo { s.fifo with rx := rest })
    | [] => .ok (drawOf s.inputs).1 (setRxErr (s.setInputs (drawOf s.inputs).2))
  else .fault (.fifoOff (ctrlSite s) .read)

/-- The read of a register whose bus access succeeds (R185, R187, R189 to R191). -/
def readOnBus (r : Reg) (s : State) : Res Word :=
  let d := (drawOf s.inputs).1
  let s' := s.setInputs (drawOf s.inputs).2
  match r with
  | .csA => .ok (csValue s d) s'
  | .fifoA => fifoPop s
  | .modeA => .ok (plainValue (modeKnown s.params.regmap.mode) s.pr.mode d) s'
  | .rxcA => .ok (plainValue (formatKnown s.params.regmap.fmt) s.pr.rxc d) s'
  | .txcA => .ok (plainValue (formatKnown s.params.regmap.fmt) s.pr.txc d) s'
  | .dreqA => .ok (plainValue (dreqKnown s.params.regmap.dreq) s.pr.dreq d) s'
  | .intenA => .ok (plainValue (intKnown s.params.regmap.int) s.pr.inten d) s'
  | .intstcA => .ok (plainValue (intKnown s.params.regmap.int) s.pr.intstc d) s'
  | .gray => .ok d s'

/-! ## Register writes (R186, R188 to R191) -/

/-- A write of CS_A (R186). Every write that changes `sync_w` restarts the SYNC echo (R75), also one that carries SYNC back as read (R182).
So CLEAR_FIFOS with mask 0 ends early on an echo in flight, as R462 tells; with a mask that names a FIFO its own clear has restarted that
echo (R182), and the poll ends after the clear (R251), where R462 and V75 say otherwise. DEDUCED (log 28). -/
def writeCs (v : Word) (s : State) : State :=
  let c := s.params.regmap.cs
  let cs : CsA :=
    { en := fieldTest c.en v
      rxon := fieldTest c.rxon v
      txon := fieldTest c.txon v
      txthr := (fieldGet c.txthr v).setWidth 2
      rxthr := (fieldGet c.rxthr v).setWidth 2
      dmaen := fieldTest c.dmaen v
      txerr := s.pr.cs.txerr && !fieldTest c.txerr v
      rxerr := s.pr.cs.rxerr && !fieldTest c.rxerr v
      rxsex := fieldTest c.rxsex v
      stby := fieldTest c.stby v }
  let pipe : Pipe :=
    { s.pipe with
      clrTx := if fieldTest c.txclr v && s.pipe.clrTx == .none then .zero else s.pipe.clrTx
      clrRx := if fieldTest c.rxclr v && s.pipe.clrRx == .none then .zero else s.pipe.clrRx
      syncW := fieldTest c.sync v
      syncCnt := if fieldTest c.sync v == s.pipe.syncW then s.pipe.syncCnt else 0 }
  (s.setPr { s.pr with cs := cs }).setPipe pipe

/-- A FIFO_A write: the push of R188. -/
def fifoPush (v : Word) (s : State) : Res Unit :=
  if fifoOn s then
    if s.fifo.tx.length < s.params.fifoDepth then .ok () (s.setFifo { s.fifo with tx := s.fifo.tx ++ [v] })
    else .fault (.txOverflow (ctrlSite s) v)
  else .fault (.fifoOff (ctrlSite s) .write)

/-- The MODE_A bits whose modes the spec gives no meaning (R189, R416). -/
def modeRefused (m : ModeFields) : Word :=
  fieldMask m.ftxp ||| fieldMask m.frxp ||| fieldMask m.pdme ||| fieldMask m.pdmn ||| fieldMask m.clki

/-- The write of a register whose bus access succeeds (R186, R188 to R191). -/
def writeOnBus (r : Reg) (v : Word) (s : State) : Res Unit :=
  let m := s.params.regmap
  match r with
  | .csA => .ok () (writeCs v s)
  | .fifoA => fifoPush v s
  | .modeA =>
    if v &&& modeRefused m.mode = 0#32 then .ok () (s.setPr { s.pr with mode := v &&& modeKnown m.mode })
    else .refused (.modeUnmodelled v)
  | .rxcA => .ok () (s.setPr { s.pr with rxc := v &&& formatKnown m.fmt })
  | .txcA => .ok () (s.setPr { s.pr with txc := v &&& formatKnown m.fmt })
  | .dreqA => .ok () (s.setPr { s.pr with dreq := v &&& dreqKnown m.dreq })
  | .intenA => .ok () (s.setPr { s.pr with inten := v &&& intKnown m.int })
  | .intstcA => .ok () (s.setPr { s.pr with intstc := s.pr.intstc &&& ~~~ v })
  | .gray => .refused (.grayWrite v)

/-! ## The primitives RegRead and RegWrite (R11, R192) -/

/-- The bus access succeeds: always, unless `P_BUS_MAY_FAIL` lets the oracle answer (R192). -/
def busOk (s : State) : Bool := !s.params.busMayFail || (answerOf s.inputs).1

/-- The state after the bus access's answer was taken (R192). -/
def afterBus (s : State) : State :=
  if s.params.busMayFail then s.setInputs (answerOf s.inputs).2 else s

/-- `RegRead` (R11): one micro-operation of CTRL. -/
def regRead (r : Reg) (s : State) : Res Word :=
  if busOk s then readOnBus r (afterBus s) else .fault (.bus (ctrlSite s) (regOffset s.params.regmap r))

/-- `RegWrite` (R11): one micro-operation of CTRL. -/
def regWrite (r : Reg) (v : Word) (s : State) : Res Unit :=
  if busOk s then writeOnBus r v (afterBus s) else .fault (.bus (ctrlSite s) (regOffset s.params.regmap r))

/-- The word `UpdateBits` would write (R182). -/
def updated (old mask val : Word) : Word := (old &&& ~~~ mask) ||| (val &&& mask)

/-! ## Memory (R100 to R109) -/

/-- What a byte of memory that nothing has written reads as: DESIGN CHOICE, unsafe (log 7, R453). -/
def memUnlisted (_a : Nat) : Byte := 0#8

/-- The byte at an address. -/
def memByte : Mem → Nat → Byte
  | [], a => memUnlisted a
  | (k, b) :: rest, a => if k = a then b else memByte rest a

/-- Memory with one byte written, in the canonical form. -/
def memPut : Mem → Nat → Byte → Mem
  | [], a, b => if b = memUnlisted a then [] else [(a, b)]
  | (k, c) :: rest, a, b =>
    if a < k then (if b = memUnlisted a then (k, c) :: rest else (a, b) :: (k, c) :: rest)
    else if a = k then (if b = memUnlisted a then rest else (a, b) :: rest)
    else (k, c) :: memPut rest a b

/-- The canonical form of memory: addresses strictly rising, no entry equal to what an unlisted address reads as. -/
def Memory.wf : Mem → Bool
  | [] => true
  | (k, b) :: rest => b != memUnlisted k && rest.all (fun e => k < e.1) && Memory.wf rest

/-- Memory with the bytes `bs` written from address `a` on. -/
def memPutBytes (m : Mem) (a : Nat) : List Byte → Mem
  | [] => m
  | b :: bs => memPutBytes (memPut m a b) (a + 1) bs

/-- The low `n` bytes of a word, lowest address first (R100). -/
def lowBytes (n : Nat) (v : Word) : List Byte := (List.range n).map (byteOf v)

/-- The 32-bit word at an address, little-endian (R100). -/
def memWord (m : Mem) (a : Nat) : Word := wordOfBytes (memByte m a) (memByte m (a + 1)) (memByte m (a + 2)) (memByte m (a + 3))

/-- `MemRead(a, n)`, zero-extended to a word (R11, R100). -/
def memReadSized (m : Mem) (a : Nat) : AccessSize → Word
  | .byte => (memByte m a).setWidth 32
  | .half => wordOfBytes (memByte m a) (memByte m (a + 1)) 0#8 0#8
  | .word => memWord m a

/-- `MemWrite(a, n, v)` (R11, R100). -/
def memWrite (m : Mem) (a n : Nat) (v : Word) : Mem := memPutBytes m a (lowBytes n v)

/-- The `n` bytes from `a` on lie in the buffer region (R101, R102). -/
def inRegion (s : State) (a : Word) (n : Nat) : Bool :=
  s.ctx.region.phys.toNat ≤ a.toNat ∧ a.toNat + n ≤ s.ctx.region.phys.toNat + s.ctx.region.size.toNat

/-! ## External calls (R290) -/

/-- Appends a call to the trace of events (R79, R290). -/
def logEvent (e : Event) (s : State) : State := s.setTraces { s.traces with events := s.traces.events ++ [e] }

/-- The oracle's answer to an external call taken (R11). -/
def afterAnswer (s : State) : State := s.setInputs (answerOf s.inputs).2

/-- `Ext.PrepCyclic` answered ok (R290). -/
def prepChannel (c : Channel) (d : Desc) : Channel :=
  { c with desc := some d, pos := 0#32, pending := 0, err := false, phase := .prepared }

/-- `Ext.Submit` answered ok; it requires phase PREPARED (R290, log 20). -/
def submitChannel (c : Channel) : Channel := if c.phase = .prepared then { c with phase := .submitted } else c

/-- `Ext.IssuePending` (R290). -/
def issueChannel (c : Channel) : Channel := if c.phase = .submitted then { c with phase := .running } else c

/-- `Ext.TerminateAsync` answered ok (R290). -/
def terminateChannel (c : Channel) : Channel :=
  if c.phase = .prepared ∨ c.phase = .submitted ∨ c.phase = .running then { c with phase := .stopping, pending := 0 }
  else { c with pending := 0 }

/-- `Ext.Synchronize` may return: the channel is STOPPED or IDLE (R290). -/
def quiesced (c : Channel) : Bool := c.phase == .stopped || c.phase == .idle

/-- `Ext.Synchronize` returning (R290). -/
def syncChannel (c : Channel) : Channel := { c with phase := .idle, desc := none, pos := 0#32, pending := 0 }

/-- The allocator's ok answer satisfies R336 and R108. -/
def allocOk (n phys size : Word) : Bool :=
  size == n && phys.toNat % 4 == 0 && decide (phys.toNat + size.toNat ≤ 2 ^ 32)

/-! ## The completion interrupt (R320, R422, R423): nothing is saved, nothing is restored -/

/-- Counts and clears a channel's error flag (R323). -/
def inspectErr (d : Dir) (s : State) : State :=
  if (s.chan d).err then
    (s.setCtx { s.ctx with dmaErrors := s.ctx.dmaErrors + 1#32 }).setChan d { s.chan d with err := false }
  else s

/-- Takes one pending completion of channel `P_CALLBACK_DIR`: the body of PERIOD_CALLBACK, one atomic step (R320). -/
def takeCompletion (s : State) : State :=
  let c := s.params.callbackDir
  let s1 := s.setChan c { s.chan c with pending := (s.chan c).pending - 1 }
  let s2 := s1.setCtx { s1.ctx with irqCount := s1.ctx.irqCount + 1#32, bufIdx := !s1.ctx.bufIdx, notify := true }
  inspectErr .tx (inspectErr .rx s2)

/-- The end of a CTRL command: `ctx.result` takes the code and `pc_ctrl` passes the command's `1 + n_ops` words (R47, R410). -/
def endCommand (nops : Nat) (c : Code) (s : State) : State :=
  (s.setCtx { s.ctx with result := c }).setCtrl { s.ctrl with k := s.ctrl.k + 1 + nops, m := 0, todo := [], first := .ok }

end Sys2Proof.Machine
end

