-- ==== Sys2Proof/Machine/Autonomous.lean ====
section
/-! DEFINITION. The steps of the autonomous agents: serial engine (R371 to R374), DMA data mover (R380 to R383), environment (R395),
and the host's observations (R46, R431). -/

namespace Sys2Proof.Machine

/-! ## PCM (R371, R372) -/

/-- One PCM clock of a FIFO clear pipeline (R76, R371). -/
def clearTick : ClearStage → ClearStage
  | .none => .none
  | .zero => .one
  | .one => .none

/-- The FIFOs after one PCM clock of the clear pipelines (R76, R371). -/
def clearedFifos (p : Pipe) (f : Fifos) : Fifos where
  tx := if p.clrTx = .one then [] else f.tx
  rx := if p.clrRx = .one then [] else f.rx

/-- The pipelines after one PCM clock: clears, then the SYNC echo (R75, R371). -/
def pipeTick (p : Pipe) : Pipe where
  syncW := p.syncW
  syncR := if p.syncCnt < 2 ∧ p.syncCnt + 1 = 2 then p.syncW else p.syncR
  syncCnt := if p.syncCnt < 2 then p.syncCnt + 1 else p.syncCnt
  clrTx := clearTick p.clrTx
  clrRx := clearTick p.clrRx
  slotPhase := p.slotPhase

/-- PCM_CLOCK (R371). A clear left pending by a timed-out poll empties its FIFO here whenever the clock runs (R76, R251), the primed TX FIFO
before START among them, so that DMA_TX may beat where R457 says no DMA traffic occurs. DEDUCED (log 29). -/
def pcmClock (s : State) : State := (s.setFifo (clearedFifos s.pipe s.fifo)).setPipe (pipeTick s.pipe)

/-- The transmit half of a SLOT step with TXON = 1 (R372). -/
def slotTx (s : State) : State :=
  match s.fifo.tx with
  | w :: rest =>
    (s.setFifo { s.fifo with tx := rest }).setTraces { s.traces with txLine := s.traces.txLine ++ [(s.pipe.slotPhase, w)] }
  | [] =>
    let t := setTxErr (s.setInputs (drawOf s.inputs).2)
    t.setTraces { t.traces with txLine := t.traces.txLine ++ [(s.pipe.slotPhase, (drawOf s.inputs).1)] }

/-- The receive half of a SLOT step with RXON = 1 (R372, R374). -/
def slotRx (s : State) : State :=
  let t := s.setInputs (rxWordOf s.inputs).2
  if s.fifo.rx.length < s.params.fifoDepth then
    t.setFifo { t.fifo with rx := t.fifo.rx ++ [⟨(rxWordOf s.inputs).1, s.pipe.slotPhase⟩] }
  else setRxErr t

/-- The other slot. -/
def otherSlot : Slot → Slot
  | .ch1 => .ch2
  | .ch2 => .ch1

/-- The SLOT step is enabled (R372). -/
def slotEnabled (s : State) : Bool := frameRunning s && s.pr.cs.en && s.pr.cs.stby

/-- A SLOT step on a layout the model has (R372). -/
def slotEffect (s : State) : State :=
  let t := if s.pr.cs.txon then slotTx s else s
  let r := if s.pr.cs.rxon then slotRx t else t
  r.setPipe { r.pipe with slotPhase := otherSlot r.pipe.slotPhase }

/-- SLOT (R372, R373). -/
def slotStep (s : State) : Host.Outcome State Fault Refusal :=
  if layoutOk s then .next (slotEffect s) else .fault (.frameUnmodelled .pcm s.pr.mode s.pr.rxc s.pr.txc)

/-! ## DMA (R380 to R383) -/

/-- The DMA request conditions of both channels: DMAEN, EN, STBY (R380, R381). -/
def requestsOn (s : State) : Bool := s.pr.cs.dmaen && s.pr.cs.en && s.pr.cs.stby

/-- The RX request level, DREQ_A.RX (R380). -/
def dreqRxLevel (s : State) : Nat := (fieldGet s.params.regmap.dreq.rx s.pr.dreq).toNat

/-- The TX request level, DREQ_A.TX (R381). -/
def dreqTxLevel (s : State) : Nat := (fieldGet s.params.regmap.dreq.tx s.pr.dreq).toNat

/-- A beat of the channel is enabled (R380, R381). -/
def beatEnabled (d : Dir) (s : State) : Bool :=
  (s.chan d).phase == .running && (s.chan d).desc.isSome && requestsOn s &&
    (match d with
     | .rx => decide (dreqRxLevel s < s.fifo.rx.length)
     | .tx => decide (s.fifo.tx.length < min (dreqTxLevel s) s.params.fifoDepth))

/-- The completions pending after a beat of a descriptor (R382, R322). -/
def pendingAfter (p : Params) (desc : Desc) (pos : Word) (pending : Nat) : Nat :=
  if pos.toNat % desc.periodLen.toNat = 0 ∧ desc.cb = true then
    match p.delivery with
    | .exact => pending + 1
    | .mayCoalesce => 1
  else pending

/-- `ADVANCE(d)` (R382). -/
def advanceChannel (p : Params) (desc : Desc) (c : Channel) : Channel :=
  let pos := c.pos + 4#32
  { c with
    pending := pendingAfter p desc pos c.pending
    pos := if pos = desc.bufLen then 0#32 else pos }

/-- The half of its buffer a channel is transferring (R382, R384). -/
def channelHalf (desc : Desc) (c : Channel) : Nat := c.pos.toNat / desc.periodLen.toNat

/-- The bus address of a channel's next beat (R380, R381). -/
def beatAddr (desc : Desc) (c : Channel) : Word := desc.base + c.pos

/-- A DMA_RX beat: the head of the RX FIFO to memory (R380). -/
def beatRx (desc : Desc) (s : State) : Host.Outcome State Fault Refusal :=
  match s.fifo.rx with
  | [] => .next s
  | e :: rest =>
    let a := beatAddr desc s.dmaRx
    if inRegion s a 4 then
      .next (((s.setFifo { s.fifo with rx := rest }).setMem (memWrite s.mem a.toNat 4 e.word)).setDmaRx
        (advanceChannel s.params desc s.dmaRx))
    else .fault (.memRange (.dma .rx) a)

/-- A DMA_TX beat: memory to the tail of the TX FIFO (R381). -/
def beatTx (desc : Desc) (s : State) : Host.Outcome State Fault Refusal :=
  let a := beatAddr desc s.dmaTx
  if inRegion s a 4 then
    .next ((s.setFifo { s.fifo with tx := s.fifo.tx ++ [memWord s.mem a.toNat] }).setDmaTx
      (advanceChannel s.params desc s.dmaTx))
  else .fault (.memRange (.dma .tx) a)

/-- A beat of a channel (R380, R381). -/
def beatStep (d : Dir) (s : State) : Host.Outcome State Fault Refusal :=
  match (s.chan d).desc with
  | none => .next s
  | some desc =>
    match d with
    | .rx => beatRx desc s
    | .tx => beatTx desc s

/-- QUIESCE (R383). -/
def quiesceStep (d : Dir) (s : State) : State := s.setChan d { s.chan d with phase := .stopped }

/-! ## ENV (R395) -/

/-- A channel error (R395). -/
def envErrorStep (d : Dir) (s : State) : State := s.setChan d { s.chan d with err := true }

/-- INTSTC_A.TXW set (R395). -/
def envTxwStep (s : State) : State :=
  s.setPr { s.pr with intstc := s.pr.intstc ||| fieldMask s.params.regmap.int.txw }

/-- INTSTC_A.RXR set (R395). -/
def envRxrStep (s : State) : State :=
  s.setPr { s.pr with intstc := s.pr.intstc ||| fieldMask s.params.regmap.int.rxr }

/-! ## The host (R46, R431) -/

/-- A bit as a word. -/
def bitWord (b : Bool) : Word := if b then 1#32 else 0#32

/-- What the host reads of a `ctx.*` register, zero-extended; none where the register has no value yet (R41, R46). -/
def ctxValue (c : Ctx) : CtxReg → Option Word
  | .state => some ((coordNumber c.state).setWidth 32)
  | .initDone => some (bitWord c.initDone)
  | .resolved => some (bitWord c.resolved)
  | .profileId => some (c.profile.profileId.setWidth 32)
  | .bclkMaster => some (bitWord c.profile.bclkMaster)
  | .fsMaster => some (bitWord c.profile.fsMaster)
  | .bclkRate => some c.profile.bclkRate
  | .frameLen => some (c.profile.frameLen.setWidth 32)
  | .fsLen => some (c.profile.fsLen.setWidth 32)
  | .ch1Pos => some (c.profile.ch1Pos.setWidth 32)
  | .ch2Pos => some (c.profile.ch2Pos.setWidth 32)
  | .configured => some (bitWord c.configured)
  | .clkRate => some c.clkRate
  | .clkRateErr => some (bitWord c.clkRateErr)
  | .regionVirt => some c.region.virt
  | .regionPhys => some c.region.phys
  | .regionSize => some c.region.size
  | .periodFrames => some c.geom.periodFrames
  | .channelCount => some c.geom.channelCount
  | .periodLen => some c.geom.periodLen
  | .bufLen => some c.geom.bufLen
  | .rxBase => some c.geom.rxBase
  | .txBase => some c.geom.txBase
  | .cvBase => some c.geom.cvBase
  | .geomValid => some (bitWord c.geomValid)
  | .irqCount => some c.irqCount
  | .bufIdx => some (bitWord c.bufIdx)
  | .notify => some (bitWord c.notify)
  | .result => some ((codeNumber c.result).setWidth 32)
  | .lastRead => c.lastRead
  | .consIdx => c.consIdx.map bitWord
  | .syncDiscards => some c.sync.discards
  | .syncPrev => some c.sync.prev
  | .syncPrevValid => some (bitWord c.sync.prevValid)
  | .syncIters => some c.sync.iters
  | .clearTimeouts => some c.clearTimeouts
  | .dmaErrors => some c.dmaErrors
  | .relayEnabled => some (bitWord c.relayEnabled)

/-- A host observation: no effect, and F_UNWRITTEN where the register has no value (R41, R46). -/
def hostStep (r : CtxReg) (s : State) : Host.Outcome State Fault Refusal :=
  match ctxValue s.ctx r with
  | some _ => .next s
  | none => .fault (.unwritten .host r)

end Sys2Proof.Machine
end

