-- ==== Sys2Proof/Machine/Engine.lean ====
section
/-! DEFINITION. One micro-operation of a CTRL command (R12, R47): what each item of a command's sequence does, and how a command
starts, goes on, and ends. Every CTRL command is a sequence run by `runCommand` (log 1). -/

namespace Sys2Proof.Machine

/-! ## Register-only items, merged with the next access (R12) -/

/-- What a register-only item does: a state, a guard's fault, or nothing because the item is an access. -/
inductive Quiet where
  | act (s : State)
  | fault (f : Fault)
  | access
  deriving Repr

/-- A guard: the fault F_ILLEGAL_STATE unless the condition holds (R415). -/
def guardThat (ok : Bool) (c : Cmd) (s : State) : Quiet :=
  if ok then .act s else .fault (.illegalState (ctrlSite s) c)

/-- Both channels are PREPARED: the guard of DMA_SUBMIT (R294). -/
def bothPrepared (s : State) : Bool := s.dmaRx.phase == .prepared && s.dmaTx.phase == .prepared

/-- The synchronizer's registers before its first status read (R254). -/
def syncCleared (s : State) : State :=
  (s.setCtx { s.ctx with sync := ⟨0#32, 0#32, false, 0#32⟩ }).setTraces { s.traces with discardLog := [] }

/-- A status read counted (R254). -/
def readCounted (s : State) : State :=
  s.setCtx { s.ctx with sync := { s.ctx.sync with iters := s.ctx.sync.iters + 1#32 } }

/-- A popped word counted and recorded (R254). -/
def popCounted (w : Word) (s : State) : State :=
  (s.setCtx { s.ctx with sync := { s.ctx.sync with discards := s.ctx.sync.discards + 1#32 } }).setTraces
    { s.traces with discardLog := s.traces.discardLog ++ [w] }

/-- A popped word kept for the next comparison (R254). -/
def popRetained (w : Word) (s : State) : State :=
  s.setCtx { s.ctx with sync := { s.ctx.sync with prev := w, prevValid := true } }

/-- A clear poll that timed out, counted (R252). -/
def timeoutCounted (s : State) : State := s.setCtx { s.ctx with clearTimeouts := s.ctx.clearTimeouts + 1#32 }

/-- The clock rate asked for, and a refusal of it, recorded (R215, R216). -/
def rateNoted (ok : Bool) (s : State) : State :=
  s.setCtx { s.ctx with clkRate := s.ctx.profile.bclkRate, clkRateErr := s.ctx.clkRateErr || !ok }

/-- The effect of a register-only item. -/
def quiet (mi : Micro) (s : State) : Quiet :=
  match mi with
  | .syncInit => .act (syncCleared s)
  | .countRead => .act (readCounted s)
  | .countPop w => .act (popCounted w s)
  | .retain w => .act (popRetained w s)
  | .noteRate ok => .act (rateNoted ok s)
  | .guardResolved => guardThat s.ctx.resolved .configure s
  | .guardConfigured => guardThat s.ctx.configured .enable s
  | .guardPrepare d => guardThat ((s.chan d).phase == .idle && s.ctx.geomValid) .dmaPrepare s
  | .guardSubmit => guardThat (bothPrepared s) .dmaSubmit s
  | .setConfigured b => .act (s.setCtx { s.ctx with configured := b })
  | .setCoord c => .act (s.setCtx { s.ctx with state := c })
  | .prime n => if n = 0 then .act s else .access
  | .clearPoll _ n => if n = 0 then .act (timeoutCounted s) else .access
  | .readReg _ => .access
  | .writeReg _ _ => .access
  | .updRead _ _ _ => .access
  | .updWrite _ _ _ _ => .access
  | .clkSetRate => .access
  | .clkEnable => .access
  | .alloc => .access
  | .slaveConfig _ => .access
  | .prepCyclic _ => .access
  | .submit _ _ => .access
  | .issue _ => .access
  | .terminate _ => .access
  | .synchronize _ => .access
  | .clearSave _ _ => .access
  | .clearEcho => .access
  | .syncStatus _ => .access
  | .syncPush => .access
  | .syncPop _ => .access
  | .ret _ => .access
  | .retFirst => .access

/-- Where the sequence is ready: at an access, at the command's end, stopped by a guard, or empty. -/
inductive Ready where
  | access (s : State) (mi : Micro) (rest : List Micro)
  | ended (s : State)
  | fault (f : Fault)
  | idle
  deriving Repr

/-- Runs the register-only items in front of a sequence, up to its next access or the command's end. -/
def runQuiet (nops : Nat) : List Micro → State → Ready
  | [], _ => .idle
  | .ret c :: _, s => .ended (endCommand nops c s)
  | .retFirst :: _, s => .ended (endCommand nops s.ctrl.first s)
  | mi :: rest, s =>
    match quiet mi s with
    | .act s' => runQuiet nops rest s'
    | .fault f => .fault f
    | .access => .access s mi rest

/-! ## Accesses -/

/-- What an access does to the sequence: it is done, with items to do before the rest; it replaces the sequence; it holds; or it stops. -/
inductive Act where
  | done (s : State) (more : List Micro)
  | replace (s : State) (todo : List Micro)
  | hold
  | fault (f : Fault)
  | refused (r : Refusal)
  deriving Repr

/-- A register read whose value the next items use. -/
def actRead (r : Reg) (s : State) (next : Word → State → Act) : Act :=
  match regRead r s with
  | .ok v s' => next v s'
  | .fault f => .fault f
  | .refused x => .refused x

/-- A register write. -/
def actWrite (r : Reg) (v : Word) (s : State) (next : State → Act) : Act :=
  match regWrite r v s with
  | .ok _ s' => next s'
  | .fault f => .fault f
  | .refused x => .refused x

/-- DMA_PREPARE's `failed(e)`: tears RX down if TX failed and RX is not IDLE, and returns the error (R291, R333). -/
def prepareFailed (d : Dir) (e : Code) (s : State) : List Micro :=
  if d = .tx ∧ s.dmaRx.phase ≠ .idle then [.terminate .rx, .ret e] else [.ret e]

/-- DMA_SUBMIT's failure: alone it returns, in BUFFERS_SETUP both channels are terminated first (R294, R332). -/
def submitFailed (unwind : Bool) : List Micro :=
  if unwind then [.terminate .tx, .terminate .rx, .ret .submit] else [.ret .submit]

/-- SYNC_FIFOS has used up `P_SYNC_POLL_LIMIT` (R258), `iters` being `ctx.sync_iters`. The 32-bit register is what is compared, as in
R254: DESIGN CHOICE (log 25), a limit of 2^32 or more never times out, since the register wraps before it is reached. -/
def syncSpent (p : Params) (iters : Word) : Bool :=
  match p.syncPollLimit with
  | none => false
  | some n => iters.toNat == n

/-- The return E_SYNC_TIMEOUT, and what START undoes before it (R258, R340). -/
def syncTimedOut (inStart : Bool) (s : State) : List Micro :=
  if inStart then
    [.updRead .csA (enableMask s.params.regmap.cs true true) 0#32, .setCoord .configured, .ret .syncTimeout]
  else [.ret .syncTimeout]

/-- The loop of SYNC_FIFOS goes round: after the register-only items `pre`, another status read, or the cap if `iters` reads are all (R254). -/
def syncAgain (inStart : Bool) (iters : Word) (pre : List Micro) (s : State) : Act :=
  if syncSpent s.params iters then .replace s (pre ++ syncTimedOut inStart s) else .done s (pre ++ [.syncStatus inStart])

/-- The pop of SYNC_FIFOS: the word is to be counted and recorded, and is compared with the one before (R254, R256). -/
def syncPopped (inStart : Bool) (w : Word) (s : State) : Act :=
  if s.ctx.sync.prevValid && s.ctx.sync.prev == 0#32 && w == 0#32 then .done s [.countPop w]
  else syncAgain inStart s.ctx.sync.iters [.countPop w, .retain w] s

/-- The items of CLEAR_FIFOS after its first read, which found the enables `saved` (R250). -/
def clearAfterSave (c : CsFields) (tx rx : Bool) (saved : Word) : List Micro :=
  [.updRead .csA (enableMask c tx rx) 0#32, .updRead .csA (clearMask c tx rx) (clearMask c tx rx), .clearEcho,
   .updRead .csA (enableMask c true true) saved]

/-- One access: a micro-operation. What the command computes of its result on block registers comes as register-only items (R12). -/
def access (mi : Micro) (s : State) : Act :=
  let m := s.params.regmap
  let ok := (answerOf s.inputs).1
  let t := afterAnswer s
  match mi with
  | .readReg r => actRead r s (fun v s' => .done (s'.setCtx { s'.ctx with lastRead := some v }) [])
  | .writeReg r v => actWrite r v s (fun s' => .done s' [])
  | .updRead r mask val => actRead r s (fun v s' => .done s' [.updWrite r v mask val])
  | .updWrite r old mask val =>
    if updated old mask val ≠ old ∨ s.params.updateAlwaysWrites then
      actWrite r (updated old mask val) s (fun s' => .done s' [])
    else .done s []
  | .clkSetRate =>
    .done (logEvent (.clkSetRate s.ctx.profile.bclkRate ok) t) [.noteRate ok]
  | .clkEnable => .done (logEvent (.clkEnable ok) (t.setClk ok)) []
  | .alloc =>
    let a := (allocOf s.inputs).1
    let u := logEvent (.alloc s.params.maxBufferBytes a) (s.setInputs (allocOf s.inputs).2)
    match a with
    | .fail => .replace u [.ret .alloc]
    | .ok virt phys size =>
      if allocOk s.params.maxBufferBytes phys size then
        .done (u.setCtx { u.ctx with region := ⟨virt, phys, size⟩, initDone := true }) []
      else .refused (.allocAnswer virt phys size)
  | .slaveConfig d =>
    let u := logEvent (.slaveConfig d (slaveCfgOf s.params d) ok) t
    if ok then .done (u.setChan d { u.chan d with slave := some (slaveCfgOf s.params d) }) []
    else .replace u (prepareFailed d .config u)
  | .prepCyclic d =>
    let u := logEvent (.prepCyclic d (descOf s.params s.ctx.geom d) ok) t
    if ok then .done (u.setChan d (prepChannel (u.chan d) (descOf s.params s.ctx.geom d))) []
    else .replace u (prepareFailed d .descriptor u)
  | .submit d unwind =>
    let u := logEvent (.submit d ok) t
    if ok then .done (u.setChan d (submitChannel (u.chan d))) [] else .replace u (submitFailed unwind)
  | .issue d =>
    let u := logEvent (.issuePending d) s
    .done (u.setChan d (issueChannel (u.chan d))) []
  | .terminate d =>
    let u := logEvent (.terminateAsync d ok) t
    if ok then .done (u.setChan d (terminateChannel (u.chan d))) [.synchronize d]
    else .done (u.setCtrl { u.ctrl with first := if u.ctrl.first = .ok then .terminate else u.ctrl.first }) []
  | .synchronize d =>
    if quiesced (s.chan d) then
      let u := logEvent (.synchronize d) s
      .done (u.setChan d (syncChannel (u.chan d))) []
    else .hold
  | .prime 0 => .done s []
  | .prime (n + 1) => actWrite .fifoA 0#32 s (fun s' => .done s' [.prime n])
  | .clearSave tx rx =>
    actRead .csA s (fun v s' => .done s' (clearAfterSave m.cs tx rx (v &&& enableMask m.cs true true)))
  | .clearEcho =>
    actRead .csA s (fun v s' =>
      let e := v &&& fieldMask m.cs.sync
      .done s' [.updRead .csA (fieldMask m.cs.sync) (~~~ e), .clearPoll e s.params.clearPollLimit])
  | .clearPoll _ 0 => .done s []
  | .clearPoll e (n + 1) =>
    actRead .csA s (fun v s' => .done s' (if v &&& fieldMask m.cs.sync = e then [.clearPoll e n] else []))
  | .syncStatus inStart =>
    actRead .csA s (fun v s' =>
      if fieldTest m.cs.rxd v then .done s' [.countRead, .syncPush, .syncPop inStart]
      else syncAgain inStart (s'.ctx.sync.iters + 1#32) [.countRead] s')
  | .syncPush => actWrite .fifoA 0#32 s (fun s' => .done s' [])
  | .syncPop inStart => actRead .fifoA s (fun w s' => syncPopped inStart w s')
  | .syncInit => .done s []
  | .countRead => .done s []
  | .countPop _ => .done s []
  | .retain _ => .done s []
  | .noteRate _ => .done s []
  | .guardResolved => .done s []
  | .guardConfigured => .done s []
  | .guardPrepare _ => .done s []
  | .guardSubmit => .done s []
  | .setConfigured _ => .done s []
  | .setCoord _ => .done s []
  | .ret _ => .done s []
  | .retFirst => .done s []

/-! ## A command's step (R47, R415) -/

/-- After an access: the command ends at once if only register-only items are left, else `m` counts the access and the items wait (R12, R47). -/
def goOn (nops : Nat) (todo : List Micro) (s : State) : Host.Outcome State Fault Refusal :=
  match runQuiet nops todo s with
  | .ended t => .next t
  | _ => .next (s.setCtrl { s.ctrl with m := s.ctrl.m + 1, todo := todo })

/-- One micro-operation of a sequence. -/
def microStep (nops : Nat) (todo : List Micro) (s : State) : Host.Outcome State Fault Refusal :=
  match runQuiet nops todo s with
  | .ended t => .next t
  | .fault f => .fault f
  | .idle => .next s
  | .access s1 mi rest =>
    match access mi s1 with
    | .done s2 more => goOn nops (more ++ rest) s2
    | .replace s2 todo2 => goOn nops todo2 s2
    | .hold => .next s
    | .fault f => .fault f
    | .refused r => .refused r

/-- How a command begins: its guard and its register-only first part, then its sequence. -/
inductive Begin where
  | run (s : State) (todo : List Micro)
  | fault (f : Fault)
  deriving Repr

/-- F_ILLEGAL_STATE raised by a command's guard, before any micro-operation (R415). -/
def badState (c : Cmd) (s : State) : Begin := .fault (.illegalState (ctrlSite s) c)

/-- One step of a CTRL command with `nops` operand words: at micro-step 0 it begins, else it goes on with its sequence (R47). -/
def runCommand (nops : Nat) (begin : State → Begin) (s : State) : Host.Outcome State Fault Refusal :=
  if s.ctrl.m = 0 then
    match begin s with
    | .run s' todo => microStep nops todo s'
    | .fault f => .fault f
  else microStep nops s.ctrl.todo s

end Sys2Proof.Machine
end

