-- ==== Sys2Proof/Machine/Configurator.lean ====
section
/-! DEFINITION. The profile resolver and peripheral configurator family (R210 to R225). -/

namespace Sys2Proof.Machine

/-- What RESOLVE's body answers: the state with the profile resolved, an error result, or its guard's fault (R210). -/
inductive Resolved where
  | ok (s : State)
  | err (c : Code)
  | fault (f : Fault)
  deriving Repr

/-- The body of RESOLVE (R210, R211, R213): register-only, also the first part of INIT (R331). -/
def resolveProfile (b : BitVec 8) (s : State) : Resolved :=
  match profileIdOf s.params b with
  | none => .err .unknownProfile
  | some id =>
    if s.ctx.resolved then
      if profileBundle s.params id = s.ctx.profile then .ok s else .fault (.illegalState (ctrlSite s) .resolve)
    else .ok (s.setCtx { s.ctx with profile := profileBundle s.params id, resolved := true })

/-- RESOLVE's beginning, which is all of it. -/
def beginResolve (b : BitVec 8) (s : State) : Begin :=
  match resolveProfile b s with
  | .ok s' => .run s' [.ret .ok]
  | .err c => .run s [.ret c]
  | .fault f => .fault f

/-- RESOLVE (R210). -/
def execResolve (profile : BitVec 8) (s : State) : Host.Outcome State Fault Refusal :=
  runCommand 0 (beginResolve profile) s

/-- The body of CLEAR_REGISTERS (R214). -/
def clearRegistersSeq : List Micro :=
  [.writeReg .modeA 0#32, .writeReg .rxcA 0#32, .writeReg .txcA 0#32, .writeReg .dreqA 0#32, .writeReg .intenA 0#32,
   .setConfigured false]

/-- CLEAR_REGISTERS' beginning (R214). -/
def beginClearRegisters (s : State) : Begin := .run s (clearRegistersSeq ++ [.ret .ok])

/-- CLEAR_REGISTERS (R214). -/
def execClearRegisters (s : State) : Host.Outcome State Fault Refusal := runCommand 0 beginClearRegisters s

/-- The clock step of CONFIGURE (R216). -/
def clockSeq (p : Profile) : List Micro := if p.bclkMaster then [.clkSetRate, .clkEnable] else []

/-- The body of CONFIGURE (R215 to R221). -/
def configureSeq (s : State) : List Micro :=
  let m := s.params.regmap
  [.guardResolved] ++ clockSeq s.ctx.profile ++
    [.writeReg .modeA (modeVal m.mode s.ctx.profile), .writeReg .rxcA (formatVal m.fmt s.ctx.profile),
     .writeReg .txcA (formatVal m.fmt s.ctx.profile), .updRead .modeA (fieldMask m.mode.clkDis) 0#32,
     .updRead .csA (thresholdMask m.cs) (thresholdVal m.cs s.params), .writeReg .dreqA (dreqVal m.dreq s.params),
     .setConfigured true]

/-- CONFIGURE's beginning (R215). -/
def beginConfigure (s : State) : Begin := .run s (configureSeq s ++ [.ret .ok])

/-- CONFIGURE (R215). -/
def execConfigure (s : State) : Host.Outcome State Fault Refusal := runCommand 0 beginConfigure s

/-- The INTEN_A bits ENABLE sets: TXERR and RXERR (R223). -/
def errorInts (f : IntFields) : Word := fieldMask f.txerr ||| fieldMask f.rxerr

/-- The body of ENABLE (R223). -/
def enableSeq (m : RegMap) : List Micro :=
  [.guardConfigured, .updRead .csA (fieldMask m.cs.stby) (fieldMask m.cs.stby),
   .updRead .intenA (errorInts m.int) (errorInts m.int), .updRead .csA (fieldMask m.cs.en) (fieldMask m.cs.en)]

/-- ENABLE's beginning (R223). -/
def beginEnable (s : State) : Begin := .run s (enableSeq s.params.regmap ++ [.ret .ok])

/-- ENABLE (R223). -/
def execEnable (s : State) : Host.Outcome State Fault Refusal := runCommand 0 beginEnable s

end Sys2Proof.Machine
end

