-- ==== Sys2Proof/Machine/Dma.lean ====
section
/-! DEFINITION. The cyclic DMA engine controller family (R290 to R298) and the completion callback (R320 to R323). -/

namespace Sys2Proof.Machine

/-- The body of DMA_PREPARE (R291). -/
def prepareSeq (d : Dir) : List Micro := [.guardPrepare d, .slaveConfig d, .prepCyclic d]

/-- DMA_PREPARE's beginning (R291). -/
def beginDmaPrepare (d : Dir) (s : State) : Begin := .run s (prepareSeq d ++ [.ret .ok])

/-- DMA_PREPARE (R291). -/
def execDmaPrepare (d : Dir) (s : State) : Host.Outcome State Fault Refusal :=
  runCommand 0 (beginDmaPrepare d) s

/-- The body of DMA_SUBMIT (R294); `unwind` when BUFFERS_SETUP runs it (R332). -/
def submitSeq (unwind : Bool) : List Micro :=
  [.guardSubmit, .submit .rx unwind, .submit .tx unwind, .issue .rx, .issue .tx]

/-- DMA_SUBMIT's beginning (R294). -/
def beginDmaSubmit (s : State) : Begin := .run s (submitSeq false ++ [.ret .ok])

/-- DMA_SUBMIT (R294). -/
def execDmaSubmit (s : State) : Host.Outcome State Fault Refusal := runCommand 0 beginDmaSubmit s

/-- The body of DMA_TERMINATE: TX, then RX (R295, R296). -/
def terminateSeq : List Micro := [.terminate .tx, .terminate .rx]

/-- `first <- OK` (R296). -/
def clearFirst (s : State) : State := s.setCtrl { s.ctrl with first := .ok }

/-- DMA_TERMINATE's beginning (R296). -/
def beginDmaTerminate (s : State) : Begin := .run (clearFirst s) (terminateSeq ++ [.retFirst])

/-- DMA_TERMINATE (R296). -/
def execDmaTerminate (s : State) : Host.Outcome State Fault Refusal := runCommand 0 beginDmaTerminate s

/-- A completion is pending on channel `P_CALLBACK_DIR`: the IRQ step is enabled (R320, R390). -/
def completionPending (s : State) : Bool := decide (0 < (s.chan s.params.callbackDir).pending)

/-- PERIOD_CALLBACK (R320): with no completion pending the IRQ agent has no step. -/
def execPeriodCallback (s : State) : Host.Outcome State Fault Refusal :=
  if completionPending s then .next (takeCompletion s) else .next s

end Sys2Proof.Machine
end

