-- ==== Sys2Proof/Machine/Fifo.lean ====
section
/-! DEFINITION. The FIFO clearing, priming and synchronizer family (R250 to R259). -/

namespace Sys2Proof.Machine

/-- The body of CLEAR_FIFOS (R250). -/
def clearFifosSeq (tx rx : Bool) : List Micro := [.clearSave tx rx]

/-- CLEAR_FIFOS' beginning (R250). -/
def beginClearFifos (tx rx : Bool) (s : State) : Begin := .run s (clearFifosSeq tx rx ++ [.ret .ok])

/-- CLEAR_FIFOS (R250). -/
def execClearFifos (tx rx : Bool) (s : State) : Host.Outcome State Fault Refusal :=
  runCommand 0 (beginClearFifos tx rx) s

/-- PRIME_TX_FIFO's beginning (R253). -/
def beginPrimeTxFifo (n : BitVec 16) (s : State) : Begin := .run s [.prime n.toNat, .ret .ok]

/-- PRIME_TX_FIFO (R253). -/
def execPrimeTxFifo (n : BitVec 16) (s : State) : Host.Outcome State Fault Refusal :=
  runCommand 0 (beginPrimeTxFifo n) s

/-- The body of SYNC_FIFOS (R254). -/
def syncFifosSeq (c : CsFields) (tx rx inStart : Bool) : List Micro :=
  [.updRead .csA (enableMask c true true) (enableMask c tx rx), .syncInit, .syncStatus inStart]

/-- SYNC_FIFOS' beginning (R254). -/
def beginSyncFifos (tx rx : Bool) (s : State) : Begin := .run s (syncFifosSeq s.params.regmap.cs tx rx false ++ [.ret .ok])

/-- SYNC_FIFOS (R254). -/
def execSyncFifos (tx rx : Bool) (s : State) : Host.Outcome State Fault Refusal :=
  runCommand 0 (beginSyncFifos tx rx) s

end Sys2Proof.Machine
end

