-- ==== Sys2Proof/Machine/Coordinator.lean ====
section
/-! DEFINITION. The transfer coordinator and consumer port family (R330 to R353). -/

namespace Sys2Proof.Machine

/-! ## Bring-up -/

/-- INIT's guard and its RESOLVE (R331, R338). -/
def beginInit (b : BitVec 8) (s : State) : Begin :=
  if s.ctx.state = .unconfigured ∧ s.ctx.initDone = false then
    match resolveProfile b s with
    | .ok s' => .run s' [.alloc, .ret .ok]
    | .err c => .run s [.ret c]
    | .fault f => .fault f
  else badState .init s

/-- INIT (R331). -/
def execInit (profile : BitVec 8) (s : State) : Host.Outcome State Fault Refusal :=
  runCommand 0 (beginInit profile) s

/-- BUFFERS_SETUP's sequence once the geometry is fixed (R332, R335). -/
def buffersSeq (cc : Word) (s : State) : List Micro :=
  prepareSeq .rx ++ prepareSeq .tx ++ clearRegistersSeq ++ configureSeq s ++ enableSeq s.params.regmap ++
    clearFifosSeq true true ++ [.prime (s.params.dreqTx + cc.toNat)] ++ submitSeq true ++ [.setCoord .configured, .ret .ok]

/-- BUFFERS_SETUP's guard, geometry check and geometry registers (R332, R337, R338). -/
def beginBuffers (pf cc : Word) (s : State) : Begin :=
  if s.ctx.state = .unconfigured ∧ s.ctx.initDone = true then
    if geometryOk pf cc s.ctx.region.size then
      .run (s.setCtx { s.ctx with geom := geometryOf s.ctx.region.phys pf cc, geomValid := true }) (buffersSeq cc s)
    else .run s [.ret .geometry]
  else badState .buffersSetup s

/-- BUFFERS_SETUP (R332). -/
def execBuffersSetup (pf cc : Word) (s : State) : Host.Outcome State Fault Refusal :=
  runCommand 2 (beginBuffers pf cc) s

/-! ## Streaming control -/

/-- RXON and TXON (R340, R341). -/
def bothEnables (s : State) : Word := enableMask s.params.regmap.cs true true

/-- START's sequence (R340): the synchronizer for profile bit-clock-provider only (R17, R259). -/
def startSeq (s : State) : List Micro :=
  (if s.ctx.profile.profileId = 2#8 then syncFifosSeq s.params.regmap.cs true true true else []) ++
    [.updRead .csA (bothEnables s) (bothEnables s), .setCoord .streaming, .ret .ok]

/-- START's guard and first micro-step (R338, R340). -/
def beginStart (s : State) : Begin :=
  if s.ctx.state = .configured then .run (s.setCtx { s.ctx with state := .synchronizing }) (startSeq s)
  else badState .start s

/-- START_STOP Start (R340). -/
def execStart (s : State) : Host.Outcome State Fault Refusal := runCommand 0 beginStart s

/-- STOP's sequence: no access outside STREAMING (R341, R343). -/
def stopSeq (s : State) : List Micro :=
  if s.ctx.state = .streaming then [.updRead .csA (bothEnables s) 0#32, .setCoord .configured, .ret .ok] else [.ret .ok]

/-- STOP's beginning (R341). -/
def beginStop (s : State) : Begin := .run s (stopSeq s)

/-- START_STOP Stop (R341). -/
def execStop (s : State) : Host.Outcome State Fault Refusal := runCommand 0 beginStop s

/-! ## Teardown -/

/-- EXIT's guard and sequence (R338, R342). -/
def beginExit (s : State) : Begin :=
  if s.ctx.state = .stopped then badState .exit s
  else .run (clearFirst s) (terminateSeq ++ [.setCoord .stopped, .retFirst])

/-- EXIT (R342). -/
def execExit (s : State) : Host.Outcome State Fault Refusal := runCommand 0 beginExit s

/-! ## Consumer port -/

/-- The consumer's command is done (R48). -/
def consAdvance (s : State) : State := s.setCons { s.cons with k := s.cons.k + 1 }

/-- WAIT_COMPLETION (R350): holds until `ctx.notify` is set; the test and the clear are one step. -/
def execWaitCompletion (s : State) : Host.Outcome State Fault Refusal :=
  if s.ctx.notify then .next (consAdvance (s.setCtx { s.ctx with notify := false })) else .next s

/-- READ_BUF_IDX (R352). -/
def execReadBufIdx (s : State) : Host.Outcome State Fault Refusal :=
  .next (consAdvance (s.setCtx { s.ctx with consIdx := some s.ctx.bufIdx }))

/-- Where CONS is, for a fault record (R414, R48). -/
def consSite (s : State) : Site := .cons s.cons.k

/-- A consumer access's address and size (R353). -/
def accessAddr : DataAccess → Word × AccessSize
  | .read a n => (a, n)
  | .write a n _ => (a, n)

/-- Memory after a consumer access (R353): the value a read returns goes to the consumer, outside the state (log 19). -/
def accessMem (m : Mem) : DataAccess → Mem
  | .read _ _ => m
  | .write a n v => memWrite m a.toNat (sizeBytes n) v

/-- What a consumer read returns (R353, R100). -/
def accessValue (s : State) : DataAccess → Option Word
  | .read a n => some (memReadSized s.mem a.toNat n)
  | .write _ _ _ => none

/-- A consumer data step (R353, R108): its address is in the region, then aligned; then its last byte is in the region too (R102, log 13).
The scratch words are bytes of the region like any other: R353 and D37 let the oracle choose any address there, where R104 and U32 say that
no agent accesses them. DEDUCED (log 30). -/
def consData (acc : DataAccess) (s : State) : Host.Outcome State Fault Refusal :=
  let a := (accessAddr acc).1
  let n := sizeBytes (accessAddr acc).2
  if inRegion s a 1 then
    if a.toNat % n = 0 then
      if inRegion s a n then .next (s.setMem (accessMem s.mem acc)) else .fault (.memRange (consSite s) a)
    else .fault (.misaligned (consSite s) a)
  else .fault (.memRange (consSite s) a)

end Sys2Proof.Machine
end

