-- ==== Sys2Proof/Machine/RegisterInterface.lean ====
section
/-! DEFINITION. The register interface family (R180 to R184). -/

namespace Sys2Proof.Machine

/-- The offset check of R184, before any access, then the sequence on the register, which the CPU reaches at `P_BASE + off` (R101). -/
def beginRegister (off : BitVec 8) (todo : Reg → List Micro) (s : State) : Begin :=
  match regAtCpu s.params (s.params.base + off.setWidth 32) with
  | some r => .run s (todo r)
  | none => .fault (.badOffset (ctrlSite s) (off.setWidth 32))

/-- REG_READ's beginning (R180). -/
def beginRegRead (off : BitVec 8) : State → Begin := beginRegister off (fun r => [.readReg r, .ret .ok])

/-- REG_READ (R180). -/
def execRegRead (off : BitVec 8) (s : State) : Host.Outcome State Fault Refusal :=
  runCommand 0 (beginRegRead off) s

/-- REG_WRITE's beginning (R181). -/
def beginRegWrite (off : BitVec 8) (value : Word) : State → Begin := beginRegister off (fun r => [.writeReg r value, .ret .ok])

/-- REG_WRITE (R181). -/
def execRegWrite (off : BitVec 8) (value : Word) (s : State) : Host.Outcome State Fault Refusal :=
  runCommand 1 (beginRegWrite off value) s

/-- REG_UPDATE_BITS' beginning (R183). -/
def beginRegUpdateBits (off : BitVec 8) (mask value : Word) : State → Begin :=
  beginRegister off (fun r => [.updRead r mask value, .ret .ok])

/-- REG_UPDATE_BITS (R183). -/
def execRegUpdateBits (off : BitVec 8) (mask value : Word) (s : State) : Host.Outcome State Fault Refusal :=
  runCommand 2 (beginRegUpdateBits off mask value) s

end Sys2Proof.Machine
end

