-- ==== Sys2Proof/Machine/Dispatch.lean ====
section
/-! DEFINITION. One arm per command: one step (one micro-operation, R12) of its meaning. -/

namespace Sys2Proof.Machine

def exec (i : Instr) (s : State) : Host.Outcome State Fault Refusal :=
  match i with
  | .regRead off => Sys2Proof.Machine.execRegRead off s
  | .regWrite off value => Sys2Proof.Machine.execRegWrite off value s
  | .regUpdateBits off mask value => Sys2Proof.Machine.execRegUpdateBits off mask value s
  | .resolve profile => Sys2Proof.Machine.execResolve profile s
  | .clearRegisters => Sys2Proof.Machine.execClearRegisters s
  | .configure => Sys2Proof.Machine.execConfigure s
  | .enable => Sys2Proof.Machine.execEnable s
  | .clearFifos tx rx => Sys2Proof.Machine.execClearFifos tx rx s
  | .primeTxFifo n => Sys2Proof.Machine.execPrimeTxFifo n s
  | .syncFifos tx rx => Sys2Proof.Machine.execSyncFifos tx rx s
  | .dmaPrepare d => Sys2Proof.Machine.execDmaPrepare d s
  | .dmaSubmit => Sys2Proof.Machine.execDmaSubmit s
  | .dmaTerminate => Sys2Proof.Machine.execDmaTerminate s
  | .periodCallback => Sys2Proof.Machine.execPeriodCallback s
  | .init profile => Sys2Proof.Machine.execInit profile s
  | .buffersSetup pf cc => Sys2Proof.Machine.execBuffersSetup pf cc s
  | .stop => Sys2Proof.Machine.execStop s
  | .start => Sys2Proof.Machine.execStart s
  | .exit => Sys2Proof.Machine.execExit s
  | .waitCompletion => Sys2Proof.Machine.execWaitCompletion s
  | .readBufIdx => Sys2Proof.Machine.execReadBufIdx s

end Sys2Proof.Machine
end

