-- ==== Sys2Proof/WellFormed.lean ====
section
/-! DEFINITION. The checks on a command's operands that its types do not already make: a register offset is a multiple
of 4 (R107, R142). Directions, masks, counts and profile bytes are bounded by their types (R151 to R154). -/

namespace Sys2Proof

/-- A register offset is a multiple of 4 (R107, R142). -/
def offsetAligned (off : BitVec 8) : Bool := off.toNat % 4 == 0

/-- The command is one that an encoding of R140 to R154 exists for. -/
def WellFormed : Instr → Bool
  | .regRead off => offsetAligned off
  | .regWrite off _ => offsetAligned off
  | .regUpdateBits off _ _ => offsetAligned off
  | .resolve _ => true
  | .clearRegisters => true
  | .configure => true
  | .enable => true
  | .clearFifos _ _ => true
  | .primeTxFifo _ => true
  | .syncFifos _ _ => true
  | .dmaPrepare _ => true
  | .dmaSubmit => true
  | .dmaTerminate => true
  | .periodCallback => true
  | .init _ => true
  | .buffersSetup _ _ => true
  | .stop => true
  | .start => true
  | .exit => true
  | .waitCompletion => true
  | .readBufIdx => true

end Sys2Proof
end

