-- ==== Sys2Proof/Decode.lean ====
section
/-! DEFINITION. The decoder of R148, total on every list of words, and after it the encoder, both from the formats of R140 to R147. -/

namespace Sys2Proof

/-! ## The opcode map (R147) -/

/-- The opcodes of R147. -/
inductive Opcode
  | regRead | regWrite | regUpdateBits | resolve | clearRegisters | configure | enable
  | clearFifos | primeTxFifo | syncFifos | dmaPrepare | dmaSubmit | dmaTerminate | periodCallback
  | init | buffersSetup | startStop | exit | waitCompletion | readBufIdx
  deriving DecidableEq, Repr

/-- The command formats of R141 to R145. -/
inductive Format
  | c0 | cr | ca | cn | cb
  deriving DecidableEq, Repr

/-- The agent a command belongs to (R147). -/
inductive CmdAgent
  | ctrl | cons | irq
  deriving DecidableEq, Repr

/-- OPC to opcode (R147); every other value is illegal (R149). -/
def opcodeOf (opc : BitVec 8) : Option Opcode :=
  match opc.toNat with
  | 0x01 => some .regRead
  | 0x02 => some .regWrite
  | 0x03 => some .regUpdateBits
  | 0x10 => some .resolve
  | 0x11 => some .clearRegisters
  | 0x12 => some .configure
  | 0x13 => some .enable
  | 0x20 => some .clearFifos
  | 0x21 => some .primeTxFifo
  | 0x22 => some .syncFifos
  | 0x30 => some .dmaPrepare
  | 0x31 => some .dmaSubmit
  | 0x32 => some .dmaTerminate
  | 0x33 => some .periodCallback
  | 0x40 => some .init
  | 0x41 => some .buffersSetup
  | 0x42 => some .startStop
  | 0x43 => some .exit
  | 0x50 => some .waitCompletion
  | 0x51 => some .readBufIdx
  | _ => none

/-- The opcode's format (R147). -/
def opFormat : Opcode → Format
  | .regRead => .cr
  | .regWrite => .cr
  | .regUpdateBits => .cr
  | .resolve => .ca
  | .clearRegisters => .c0
  | .configure => .c0
  | .enable => .c0
  | .clearFifos => .ca
  | .primeTxFifo => .cn
  | .syncFifos => .ca
  | .dmaPrepare => .ca
  | .dmaSubmit => .c0
  | .dmaTerminate => .c0
  | .periodCallback => .c0
  | .init => .ca
  | .buffersSetup => .cb
  | .startStop => .ca
  | .exit => .c0
  | .waitCompletion => .c0
  | .readBufIdx => .c0

/-- How many operand words the opcode takes (R146, R147). -/
def opWords : Opcode → Nat
  | .regWrite => 1
  | .regUpdateBits => 2
  | .buffersSetup => 2
  | _ => 0

/-- The agent that may execute the opcode (R147). -/
def opAgent : Opcode → CmdAgent
  | .periodCallback => .irq
  | .waitCompletion => .cons
  | .readBufIdx => .cons
  | _ => .ctrl

/-! ## Fields of the command word (R140 to R144, R163) -/

/-- OPC, bits 31:24 (R140). -/
def opcField (w : Word) : BitVec 8 := w.extractLsb' 24 8

/-- RSV, bits 23:16 (R140). -/
def rsvField (w : Word) : BitVec 8 := w.extractLsb' 16 8

/-- IMM, bits 15:0 (R140); the count N of format CN (R144). -/
def immField (w : Word) : BitVec 16 := w.extractLsb' 0 16

/-- IMM[15:8] (R142, R143). -/
def immHigh (w : Word) : BitVec 8 := w.extractLsb' 8 8

/-- IMM[7:0]: OFF of format CR, ARG of format CA (R142, R143). -/
def immLow (w : Word) : BitVec 8 := w.extractLsb' 0 8

/-- The ARG values an opcode of format CA admits (R151 to R154). -/
def argLegal (op : Opcode) (arg : BitVec 8) : Bool :=
  match op with
  | .clearFifos => arg.toNat < 4
  | .syncFifos => arg.toNat < 4
  | .dmaPrepare => arg.toNat < 2
  | .startStop => arg.toNat < 2
  | _ => true

/-! ## The decoder (R148) -/

/-- Why a word is no command: F_ILLEGAL_COMMAND, F_BAD_OFFSET or F_TRUNCATED with the command word (R148, R414). -/
inductive DecodeError
  | illegal (w : Word)
  | badOffset (w : Word)
  | truncated (w : Word)
  deriving DecidableEq, Repr

/-- The checks of R148 on the command word alone, in their order. -/
def checkWord (w : Word) : Except DecodeError Opcode :=
  match opcodeOf (opcField w) with
  | none => .error (.illegal w)
  | some op =>
    if rsvField w ≠ 0#8 then .error (.illegal w)
    else if (opFormat op = .c0 ∨ opFormat op = .cb) ∧ immField w ≠ 0#16 then .error (.illegal w)
    else if opFormat op = .cr ∧ immHigh w ≠ 0#8 then .error (.illegal w)
    else if opFormat op = .cr ∧ (immLow w).toNat % 4 ≠ 0 then .error (.badOffset w)
    else if opFormat op = .ca ∧ (immHigh w ≠ 0#8 ∨ argLegal op (immLow w) = false) then .error (.illegal w)
    else .ok op

/-- The command an opcode makes of its word and its operand words (R142 to R146, R151 to R154). -/
def assemble (op : Opcode) (w x y : Word) : Instr :=
  match op with
  | .regRead => .regRead (immLow w)
  | .regWrite => .regWrite (immLow w) x
  | .regUpdateBits => .regUpdateBits (immLow w) x y
  | .resolve => .resolve (immLow w)
  | .clearRegisters => .clearRegisters
  | .configure => .configure
  | .enable => .enable
  | .clearFifos => .clearFifos (w.getLsbD 0) (w.getLsbD 1)
  | .primeTxFifo => .primeTxFifo (immField w)
  | .syncFifos => .syncFifos (w.getLsbD 0) (w.getLsbD 1)
  | .dmaPrepare => .dmaPrepare (if w.getLsbD 0 then .tx else .rx)
  | .dmaSubmit => .dmaSubmit
  | .dmaTerminate => .dmaTerminate
  | .periodCallback => .periodCallback
  | .init => .init (immLow w)
  | .buffersSetup => .buffersSetup x y
  | .startStop => if w.getLsbD 0 then .start else .stop
  | .exit => .exit
  | .waitCompletion => .waitCompletion
  | .readBufIdx => .readBufIdx

/-- The operand-word check of R148 and the operands, for words `w :: rest` at the command pointer. -/
def takeOperands (op : Opcode) (w : Word) (rest : List Word) : Except DecodeError Instr :=
  if rest.length < opWords op then .error (.truncated w)
  else .ok (assemble op w (rest.getD 0 0#32) (rest.getD 1 0#32))

/-- R148 for the agent `a` on the words from its command pointer on: an empty list is no command, which the agents never
decode (R47). -/
def decodeFor (a : CmdAgent) (ws : List Word) : Except DecodeError Instr :=
  match ws with
  | [] => .error (.truncated 0#32)
  | w :: rest =>
    match checkWord w with
    | .error e => .error e
    | .ok op => if opAgent op ≠ a then .error (.illegal w) else takeOperands op w rest

/-- R148 without its agent check: what command the words are, whoever may run it (log 16). -/
def decode (ws : List Word) : Except DecodeError Instr :=
  match ws with
  | [] => .error (.truncated 0#32)
  | w :: rest =>
    match checkWord w with
    | .error e => .error e
    | .ok op => takeOperands op w rest

/-- The word number `i` of an instruction whose low `nbits` bits are those of `w` and whose other bits are 0. -/
def tableWord (nbits w i : Nat) : Word := BitVec.ofNat 32 (w % 2 ^ nbits / 2 ^ (32 * i))

/-- The command the decoder reads from an instruction numbered as the opcode table numbers it. -/
def decodeTableWord (nbits w : Nat) : Option Instr :=
  match decode [tableWord nbits w 0, tableWord nbits w 1, tableWord nbits w 2] with
  | .ok i => some i
  | .error _ => none

/-! ## The encoder (R140 to R147) -/

/-- The command's opcode (R147). -/
def opcodeFor : Instr → Opcode
  | .regRead _ => .regRead
  | .regWrite _ _ => .regWrite
  | .regUpdateBits _ _ _ => .regUpdateBits
  | .resolve _ => .resolve
  | .clearRegisters => .clearRegisters
  | .configure => .configure
  | .enable => .enable
  | .clearFifos _ _ => .clearFifos
  | .primeTxFifo _ => .primeTxFifo
  | .syncFifos _ _ => .syncFifos
  | .dmaPrepare _ => .dmaPrepare
  | .dmaSubmit => .dmaSubmit
  | .dmaTerminate => .dmaTerminate
  | .periodCallback => .periodCallback
  | .init _ => .init
  | .buffersSetup _ _ => .buffersSetup
  | .stop => .startStop
  | .start => .startStop
  | .exit => .exit
  | .waitCompletion => .waitCompletion
  | .readBufIdx => .readBufIdx

/-- The agent that may execute the command (R147). -/
def cmdAgent (i : Instr) : CmdAgent := opAgent (opcodeFor i)

/-- How many operand words the command has (R146). -/
def operandWords (i : Instr) : Nat := opWords (opcodeFor i)

/-- OPC of an opcode (R147). -/
def opcodeByte : Opcode → BitVec 8
  | .regRead => 0x01#8
  | .regWrite => 0x02#8
  | .regUpdateBits => 0x03#8
  | .resolve => 0x10#8
  | .clearRegisters => 0x11#8
  | .configure => 0x12#8
  | .enable => 0x13#8
  | .clearFifos => 0x20#8
  | .primeTxFifo => 0x21#8
  | .syncFifos => 0x22#8
  | .dmaPrepare => 0x30#8
  | .dmaSubmit => 0x31#8
  | .dmaTerminate => 0x32#8
  | .periodCallback => 0x33#8
  | .init => 0x40#8
  | .buffersSetup => 0x41#8
  | .startStop => 0x42#8
  | .exit => 0x43#8
  | .waitCompletion => 0x50#8
  | .readBufIdx => 0x51#8

/-- A command word from OPC and IMM, with RSV 0 (R140). -/
def commandWord (opc : BitVec 8) (imm : BitVec 16) : Word := (opc ++ 0#8 : BitVec 16) ++ imm

/-- A direction mask byte (R153). -/
def maskByte (tx rx : Bool) : BitVec 16 :=
  match tx, rx with
  | false, false => 0#16
  | true, false => 1#16
  | false, true => 2#16
  | true, true => 3#16

/-- The command's IMM field (R141 to R145, R151 to R154). -/
def immOf : Instr → BitVec 16
  | .regRead off => off.setWidth 16
  | .regWrite off _ => off.setWidth 16
  | .regUpdateBits off _ _ => off.setWidth 16
  | .resolve p => p.setWidth 16
  | .clearFifos tx rx => maskByte tx rx
  | .primeTxFifo n => n
  | .syncFifos tx rx => maskByte tx rx
  | .dmaPrepare .rx => 0#16
  | .dmaPrepare .tx => 1#16
  | .init p => p.setWidth 16
  | .start => 1#16
  | .stop => 0#16
  | .clearRegisters => 0#16
  | .configure => 0#16
  | .enable => 0#16
  | .dmaSubmit => 0#16
  | .dmaTerminate => 0#16
  | .periodCallback => 0#16
  | .buffersSetup _ _ => 0#16
  | .exit => 0#16
  | .waitCompletion => 0#16
  | .readBufIdx => 0#16

/-- The command's operand words (R145, R146). -/
def operandsOf : Instr → List Word
  | .regWrite _ v => [v]
  | .regUpdateBits _ m v => [m, v]
  | .buffersSetup pf cc => [pf, cc]
  | .regRead _ => []
  | .resolve _ => []
  | .clearRegisters => []
  | .configure => []
  | .enable => []
  | .clearFifos _ _ => []
  | .primeTxFifo _ => []
  | .syncFifos _ _ => []
  | .dmaPrepare _ => []
  | .dmaSubmit => []
  | .dmaTerminate => []
  | .periodCallback => []
  | .init _ => []
  | .stop => []
  | .start => []
  | .exit => []
  | .waitCompletion => []
  | .readBufIdx => []

/-- The words of a command (R140). -/
def encode (i : Instr) : List Word := commandWord (opcodeByte (opcodeFor i)) (immOf i) :: operandsOf i

end Sys2Proof
end

