-- ==== Sys2Proof/Machine/Launch.lean ====
section
/-! DEFINITION. Launch refusals (R416 items 3 and 5 to 7), fetching a command from a stream (R47, R48, R148), recording a stop (R414 to R416). -/

namespace Sys2Proof.Machine

/-- A slot position pair the model can run, from `lo` on (R212). -/
def positionOk (lo : Nat) (p : Nat × Nat) : Bool := lo ≤ p.1 && p.1 ≤ 31 && p.2 == p.1 + 32

/-- The positions of all three profiles are permitted (R212, R416 item 5). -/
def positionsOk (p : Params) : Bool := positionOk 0 p.posDefault && positionOk 1 p.posShifted && positionOk 0 p.posBcp

/-- The levels, threshold codes and FIFO depth are in range (R221, R416 item 6). -/
def levelsOk (p : Params) : Bool :=
  p.dreqRx ≤ 127 && p.dreqTx ≤ 127 && p.panicRx ≤ 127 && p.panicTx ≤ 127 && p.rxThr ≤ 3 && p.txThr ≤ 3 && p.fifoDepth != 0

/-- Both poll budgets are positive (R416 item 7). -/
def pollsOk (p : Params) : Bool := p.clearPollLimit != 0 && p.syncPollLimit != some 0

/-- The launch refusal of the parameters, if any, in the order of R416. -/
def launchRefusal (p : Params) : Option Refusal :=
  if p.relayEnabled then some .relayLaunch
  else if !positionsOk p then some .positionLaunch
  else if !levelsOk p then some .levelLaunch
  else if !pollsOk p then some .pollLaunch
  else none

/-- A decoder's error as the fault of the agent at `site` (R148, R414). -/
def decodeFault (site : Site) : DecodeError → Fault
  | .illegal w => .illegalCommand site w
  | .badOffset w => .badOffset site w
  | .truncated w => .truncated site w

/-- The words at CTRL's command pointer (R47). -/
def ctrlWords (s : State) : List Word := s.ctrl.stream.drop s.ctrl.k

/-- The words at CONS's command pointer (R48). -/
def consWords (s : State) : List Word := s.cons.stream.drop s.cons.k

/-- A stream with three words stored at index `k`, what lies before and after kept. -/
def placeWords (stream : List Word) (k : Nat) (ws : List Word) : List Word :=
  (stream ++ List.replicate (k - stream.length) 0#32).take k ++ ws ++ stream.drop (k + ws.length)

/-- CTRL at the start of a command whose words are `ws`, CTRL to move next. -/
def placeCtrl (ws : List Word) (s : State) : State :=
  (s.setCtrl { s.ctrl with stream := placeWords s.ctrl.stream s.ctrl.k ws, m := 0, todo := [] }).setInputs
    { s.inputs with moves := .ctrl :: s.inputs.moves }

/-- CONS at a command whose words are `ws`, CONS to move next. -/
def placeCons (ws : List Word) (s : State) : State :=
  (s.setCons { s.cons with stream := placeWords s.cons.stream s.cons.k ws }).setInputs
    { s.inputs with moves := .cons :: s.inputs.moves }

/-- A completion pending on channel `P_CALLBACK_DIR`, IRQ to move next: what makes PERIOD_CALLBACK run (R390, log 9). -/
def placeIrq (s : State) : State :=
  let d := s.params.callbackDir
  (s.setChan d { s.chan d with pending := max 1 (s.chan d).pending }).setInputs
    { s.inputs with moves := .irq :: s.inputs.moves }

/-! ## Recording a stop (R410, R414, R416) -/

/-- How a command of CTRL begins. -/
def commandBegin : Instr → State → Begin
  | .regRead off => beginRegRead off
  | .regWrite off value => beginRegWrite off value
  | .regUpdateBits off mask value => beginRegUpdateBits off mask value
  | .resolve profile => beginResolve profile
  | .clearRegisters => beginClearRegisters
  | .configure => beginConfigure
  | .enable => beginEnable
  | .clearFifos tx rx => beginClearFifos tx rx
  | .primeTxFifo n => beginPrimeTxFifo n
  | .syncFifos tx rx => beginSyncFifos tx rx
  | .dmaPrepare d => beginDmaPrepare d
  | .dmaSubmit => beginDmaSubmit
  | .dmaTerminate => beginDmaTerminate
  | .periodCallback => fun s => .run s []
  | .init profile => beginInit profile
  | .buffersSetup pf cc => beginBuffers pf cc
  | .stop => beginStop
  | .start => beginStart
  | .exit => beginExit
  | .waitCompletion => fun s => .run s []
  | .readBufIdx => fun s => .run s []

/-- The register-only items in front of a sequence done, up to its next access, a failing guard, or the command's return. -/
def quietWork : List Micro → State → State
  | [], s => s
  | mi :: rest, s =>
    match quiet mi s with
    | .act t => quietWork rest t
    | .fault _ => s
    | .access => s

/-- What CTRL's command has done of its current micro-operation when its access, or a guard, stops it: its register-only part (R12, R415). -/
def ctrlWork (s : State) : State :=
  match decodeFor .ctrl (ctrlWords s) with
  | .error _ => s
  | .ok i =>
    if s.ctrl.m = 0 then
      match commandBegin i s with
      | .run t todo => quietWork todo t
      | .fault _ => s
    else quietWork s.ctrl.todo s

/-- The agent and pc of a fault (R414). -/
def faultSite : Fault → Site
  | .illegalCommand site _ => site
  | .badOffset site _ => site
  | .truncated site _ => site
  | .illegalState site _ => site
  | .fifoOff site _ => site
  | .txOverflow site _ => site
  | .bus site _ => site
  | .memRange site _ => site
  | .misaligned site _ => site
  | .unwritten site _ => site
  | .frameUnmodelled site _ _ _ => site

/-- The state a fault stops the machine in: nothing is rolled back (R415). -/
def faultState (f : Fault) (s : State) : State :=
  match faultSite f with
  | .ctrl _ _ => ctrlWork s
  | .cons _ => s
  | .pcm => s
  | .dma _ => s
  | .host => s

/-- The state a refusal stops the machine in: CTRL's register-only work stands, and so does the call whose answer is refused (R79, R416). -/
def refusalState (r : Refusal) (s : State) : State :=
  match r with
  | .modeUnmodelled _ => ctrlWork s
  | .grayWrite _ => ctrlWork s
  | .allocAnswer virt phys size => logEvent (.alloc s.params.maxBufferBytes (.ok virt phys size)) (ctrlWork s)
  | _ => s

/-- The state after an outcome: a fault joins the fault set, a refusal sets the mark, and the state they stopped in is kept (R414 to R416, log 10). -/
def settle (s : State) : Host.Outcome State Fault Refusal → State
  | .next t => t
  | .fault f => { faultState f s with faults := s.faults ++ [f] }
  | .refused r => { refusalState r s with refused := some r }

end Sys2Proof.Machine
end

