-- ==== Sys2Proof/Machine/Step.lean ====
section
/-! DEFINITION. One step of the machine: the agent that moves takes one atomic step (R370). -/

namespace Sys2Proof.Machine

/-- CTRL's step: one micro-operation of the command at `pc_ctrl` (R47); past the end of its stream CTRL has no step. -/
def ctrlStep (s : State) : Host.Outcome State Fault Refusal :=
  match ctrlWords s with
  | [] => .next s
  | w :: ws =>
    match decodeFor .ctrl (w :: ws) with
    | .ok i => exec i s
    | .error e => .fault (decodeFault (ctrlSite s) e)

/-- CONS's step: the command at `pc_cons` (R48); past the end of its stream CONS has no command. -/
def consStep (s : State) : Host.Outcome State Fault Refusal :=
  match consWords s with
  | [] => .next s
  | w :: ws =>
    match decodeFor .cons (w :: ws) with
    | .ok i => exec i s
    | .error e => .fault (decodeFault (consSite s) e)

/-- The step of the agent that moves; an agent whose step is not enabled changes nothing (R370, log 2). -/
def agentStep (mv : Move) (s : State) : Host.Outcome State Fault Refusal :=
  match mv with
  | .ctrl => ctrlStep s
  | .cons => consStep s
  | .consData acc => consData acc s
  | .irq => if completionPending s then exec .periodCallback s else .next s
  | .pcmClock => if clockRunning s then .next (pcmClock s) else .next s
  | .slot => if slotEnabled s then slotStep s else .next s
  | .beat d => if beatEnabled d s then beatStep d s else .next s
  | .quiesce d => if (s.chan d).phase == .stopping then .next (quiesceStep d s) else .next s
  | .envError d => if (s.chan d).phase == .running then .next (envErrorStep d s) else .next s
  | .envTxw => if flagTxw s then .next (envTxwStep s) else .next s
  | .envRxr => if flagRxr s then .next (envRxrStep s) else .next s
  | .hostRead r => hostStep r s

/-- One step: none for a refused launch, a refused state or a faulted one (R414, R416); else the next move's (R370). -/
def step (s : State) : Host.Outcome State Fault Refusal :=
  match launchRefusal s.params with
  | some r => .refused r
  | none =>
    match s.refused with
    | some r => .refused r
    | none =>
      match s.faults with
      | f :: _ => .fault f
      | [] => agentStep (moveOf s.inputs).1 (s.setInputs (moveOf s.inputs).2)

/-- `s` with an instruction stored where its agent fetches its next command, that agent to move next (logs 8, 9). -/
def State.withFetchWord (s : State) (nbits w : Nat) : State :=
  let ws := [tableWord nbits w 0, tableWord nbits w 1, tableWord nbits w 2]
  match decodeTableWord nbits w with
  | some i =>
    match cmdAgent i with
    | .ctrl => placeCtrl ws s
    | .cons => placeCons ws s
    | .irq => placeIrq s
  | none => placeCtrl ws s

end Sys2Proof.Machine
end

