-- ==== Sys2Proof/Safety.lean ====
section
/-! DEFINITION. What claims are stated in: a command run with no other agent between its micro-operations, the launch premises of
R454, the end of a run (R455), and the invariants every step keeps. -/

namespace Sys2Proof.Machine

/-! ## Runs -/

/-- `n` micro-operations of a command, no other agent stepping in between (R12, R370). -/
def execFor (i : Instr) : Nat → State → Host.Outcome State Fault Refusal
  | 0, s => .next s
  | n + 1, s =>
    match exec i s with
    | .next t => execFor i n t
    | .fault f => .fault f
    | .refused r => .refused r

/-- A run of the whole machine: any number of steps (R370). -/
inductive Reaches : State → State → Prop
  | refl (s : State) : Reaches s s
  | step {s t u : State} : Reaches s t → step t = .next u → Reaches s u

/-- A channel CTRL waits for in `Ext.Synchronize` quiesces (R290, R383). -/
def quiesceWaited (s : State) : State :=
  match s.ctrl.todo with
  | .synchronize d :: _ => if (s.chan d).phase = .stopping then quiesceStep d s else s
  | _ => s

/-- `n` micro-operations of a command, no other agent stepping in between but a channel CTRL waits for, which quiesces. -/
def execQuiesced (i : Instr) : Nat → State → Host.Outcome State Fault Refusal
  | 0, s => .next s
  | n + 1, s =>
    match exec i s with
    | .next t => execQuiesced i n (quiesceWaited t)
    | .fault f => .fault f
    | .refused r => .refused r

/-! ## Launch premises (R454) -/

/-- `P_LAUNCH_CLEAN` (R81). -/
def LaunchClean (s : State) : Prop :=
  s.pr.cs.en = false ∧ s.pr.cs.rxon = false ∧ s.pr.cs.txon = false ∧ s.pr.cs.dmaen = false ∧
    s.pipe.syncW = s.pipe.syncR ∧ s.pipe.syncCnt = 2 ∧ s.pipe.clrTx = .none ∧ s.pipe.clrRx = .none ∧
    s.fifo.tx = [] ∧ s.fifo.rx = []

/-- `NO_FAULT`: no fault, no refusal, a launch refused by its parameters being one (R454, R414, R416). -/
def NoFault (s : State) : Prop := s.faults = [] ∧ s.refused = none ∧ launchRefusal s.params = none

/-! ## The end of a run (R455) -/

/-- What R455 asks of the state a run ends at: both pointers past their streams, no fault, not refused. -/
def Ended (s : State) : Prop :=
  s.ctrl.stream.length ≤ s.ctrl.k ∧ s.cons.stream.length ≤ s.cons.k ∧ NoFault s

/-- A run that has not ended before its last state. -/
inductive ReachesLive : State → State → Prop
  | refl (s : State) : ReachesLive s s
  | step {s t u : State} : ReachesLive s t → ¬Ended t → step t = .next u → ReachesLive s u

/-- The run from `s` ends at `t`, the first such state: `t` is its observation (R455). -/
def EndsAt (s t : State) : Prop := ReachesLive s t ∧ Ended t

/-! ## Agents that stay enabled (R14, R370) -/

/-- The agents of R14. -/
inductive Agent
  | ctrl | cons | irq | pcm
  | dma (d : Dir)
  | env
  deriving DecidableEq, Repr

/-- The agent a move is a step of; the host is none of them (R14, R431). -/
def moveAgent : Move → Option Agent
  | .ctrl => some .ctrl
  | .cons => some .cons
  | .consData _ => some .cons
  | .irq => some .irq
  | .pcmClock => some .pcm
  | .slot => some .pcm
  | .beat d => some (.dma d)
  | .quiesce d => some (.dma d)
  | .envError _ => some .env
  | .envTxw => some .env
  | .envRxr => some .env
  | .hostRead _ => none

/-- The access a running command of CTRL makes next. -/
def nextAccess (s : State) : Option Micro :=
  match runQuiet 0 s.ctrl.todo s with
  | .access _ mi _ => some mi
  | _ => none

/-- CTRL holds in `Ext.Synchronize` (R11, R290). -/
def ctrlHolds (s : State) : Bool :=
  s.ctrl.m != 0 &&
    match nextAccess s with
    | some (.synchronize d) => !quiesced (s.chan d)
    | _ => false

/-- CONS holds in WAIT_COMPLETION (R11, R350). -/
def consHolds (s : State) : Bool :=
  !s.ctx.notify &&
    match decodeFor .cons (consWords s) with
    | .ok i => i == .waitCompletion
    | .error _ => false

/-- The move is a step that is enabled (R11, R370). -/
def moveEnabled (s : State) : Move → Bool
  | .ctrl => decide (s.ctrl.k < s.ctrl.stream.length) && !ctrlHolds s
  | .cons => decide (s.cons.k < s.cons.stream.length) && !consHolds s
  | .consData _ => true
  | .irq => completionPending s
  | .pcmClock => clockRunning s
  | .slot => slotEnabled s
  | .beat d => beatEnabled d s
  | .quiesce d => (s.chan d).phase == .stopping
  | .envError d => (s.chan d).phase == .running
  | .envTxw => flagTxw s
  | .envRxr => flagRxr s
  | .hostRead _ => true

/-- The agent has a step to take. CONS's data steps, which it "may" take at any point (R353), do not count (log 2). -/
def agentEnabled (s : State) : Agent → Bool
  | .ctrl => moveEnabled s .ctrl
  | .cons => moveEnabled s .cons
  | .irq => moveEnabled s .irq
  | .pcm => moveEnabled s .pcmClock || moveEnabled s .slot
  | .dma d => moveEnabled s (.beat d) || moveEnabled s (.quiesce d)
  | .env => moveEnabled s (.envError .rx) || moveEnabled s (.envError .tx) || moveEnabled s .envTxw || moveEnabled s .envRxr

/-- The agent that takes the next step, if the move is one that is enabled. -/
def steppingAgent (s : State) : Option Agent :=
  if moveEnabled s (moveOf s.inputs).1 then moveAgent (moveOf s.inputs).1 else none

/-- `FAIR` for an infinite run: every agent that stays enabled eventually steps (R454, R370, log 2). -/
def Fair (run : Nat → State) : Prop :=
  ∀ (a : Agent) (n : Nat), (∀ m, n ≤ m → agentEnabled (run m) a = true) → ∃ m, n ≤ m ∧ steppingAgent (run m) = some a

/-! ## The synchronizer's premise (R257) -/

/-- The step is a pop of SYNC_FIFOS' loop (R254). -/
def loopPops (s : State) : Bool :=
  (moveOf s.inputs).1 == .ctrl && s.ctrl.m != 0 &&
    match nextAccess s with
    | some (.syncPop _) => true
    | _ => false

/-- The word such a step pops (R187). -/
def poppedWord (s : State) : Option Word :=
  match regRead .fifoA (s.setInputs (moveOf s.inputs).2) with
  | .ok w _ => some w
  | _ => none

/-- Steps `p` and `q` of the run pop the loop's first two consecutive zero words from step `a` on (R256). -/
def FirstZeroPair (run : Nat → State) (a p q : Nat) : Prop :=
  let zeroPair := fun p q => p < q ∧ loopPops (run p) = true ∧ loopPops (run q) = true ∧ poppedWord (run p) = some 0#32 ∧
    poppedWord (run q) = some 0#32 ∧ ∀ m, p < m → m < q → loopPops (run m) = false
  a ≤ p ∧ zeroPair p q ∧ ∀ p' q', a ≤ p' → zeroPair p' q' → p ≤ p'

/-- Step `n` of the run is a SLOT step that pushes a word of channel slot `c` (R372). -/
def pushesAt (run : Nat → State) (c : Slot) (n : Nat) : Prop :=
  steppingAgent (run n) = some .pcm ∧ (moveOf (run n).inputs).1 = .slot ∧
    ∃ w, (run (n + 1)).fifo.rx = (run n).fifo.rx ++ [⟨w, c⟩]

/-- How many words steps `n` to `n + k - 1` of the run take from the head of the RX FIFO. -/
def takenFrom (run : Nat → State) (n : Nat) : Nat → Nat
  | 0 => 0
  | k + 1 => takenFrom run n k + (if (run (n + k + 1)).fifo.rx.length < (run (n + k)).fifo.rx.length then 1 else 0)

/-- The word step `p` pops is the one step `n` pushed: every word in front of it, and no other, was taken in between (R61). -/
def PoppedFrom (run : Nat → State) (n p : Nat) : Prop :=
  n < p ∧ takenFrom run (n + 1) (p - (n + 1)) = (run n).fifo.rx.length ∧
    ∀ m, n < m → m ≤ p → (run m).fifo.rx ≠ []

/-- `H_ZERO_PAIR` for a loop of SYNC_FIFOS from step `a` to step `b` of a run: the first pair of consecutive zero words it pops are the CH1
then CH2 words of one frame, and DMA_RX takes no word during it (R257, R454). -/
def HZeroPair (run : Nat → State) (a b : Nat) : Prop :=
  (∀ p q, FirstZeroPair run a p q → q < b →
    ∃ n1 n2, pushesAt run .ch1 n1 ∧ pushesAt run .ch2 n2 ∧ PoppedFrom run n1 p ∧ PoppedFrom run n2 q ∧ n1 < n2 ∧
      ∀ m, n1 < m → m < n2 → ¬(steppingAgent (run m) = some .pcm ∧ (moveOf (run m).inputs).1 = .slot)) ∧
  ∀ m, a ≤ m → m < b → ¬(steppingAgent (run m) = some (.dma .rx) ∧ (moveOf (run m).inputs).1 = .beat .rx)

/-- `CODEC_CLOCK` (R454, R376). -/
def CodecClock (s : State) : Prop := s.params.codecClock = true

/-- An allocator's answer `ok` (R336). -/
def allocSaysOk : AllocAnswer → Bool
  | .fail => false
  | .ok _ _ _ => true

/-- `ANSWERS_OK`: every `Ext.*` answer the run can take is `ok`, the allocator's too, whether the launch lists it or leaves it free
(R454, R290, R336, log 5). -/
def AnswersOk (s : State) : Prop :=
  (∀ b ∈ s.inputs.answers, b = true) ∧ (∀ a ∈ s.inputs.allocs, allocSaysOk a = true) ∧
    ∀ n, s.inputs.tick ≤ n → Config.freeAnswer n = true ∧ allocSaysOk (Config.freeAlloc n) = true

/-- The next `n` answers of the oracle are listed and `ok`: what `ANSWERS_OK` comes to for one command that takes no more than `n`. -/
def AnswersOkFor (n : Nat) (s : State) : Prop := (List.replicate n true).isPrefixOf s.inputs.answers = true

/-- Register accesses cannot fail: the default of `P_BUS_MAY_FAIL` (R192). -/
def BusReliable (s : State) : Prop := s.params.busMayFail = false

/-- The default layout (R13). -/
def DefaultLayout (s : State) : Prop := s.params.regmap = bcm2835

/-- FIFO_A accesses are let through (R187, R188, R444). -/
def FifoOpen (s : State) : Prop := s.pr.cs.en = true ∧ s.pr.cs.stby = true

/-- CTRL is at the start of a command (R47). -/
def AtStart (s : State) : Prop := s.ctrl.m = 0

/-- CTRL past a command of `n` operand words (R47, R410). -/
def ctrlPast (c : Ctrl) (n : Nat) : Ctrl := { c with k := c.k + 1 + n, m := 0, todo := [], first := .ok }

/-- CTRL after a micro-operation with `todo` left of its command (R12, R47). -/
def ctrlOn (c : Ctrl) (todo : List Micro) : Ctrl := { c with m := c.m + 1, todo := todo }

/-- The pipelines after an `UpdateBits` of CS_A that writes: SYNC goes back as it was read (R75, R182). -/
def echoBack (p : Pipe) : Pipe := { p with syncW := p.syncR, syncCnt := if p.syncW = p.syncR then p.syncCnt else 0 }

/-- A format register of two 32-bit slots that fill the frame, on the bits of the default layout: item 2 of `layout_ok` (R54, R373). -/
def FormatBits (c : Word) : Prop :=
  c.getLsbD 30 = true ∧ c.getLsbD 14 = true ∧ c.getLsbD 31 = true ∧ c.extractLsb' 16 4 = 8#4 ∧ c.getLsbD 15 = true ∧
    c.extractLsb' 0 4 = 8#4 ∧ (c.extractLsb' 20 10).toNat ≤ 31 ∧ (c.extractLsb' 4 10).toNat = (c.extractLsb' 20 10).toNat + 32

/-- `layout_ok` on the bits of the default layout (R53, R54, R373). -/
def LayoutBits (p : Peripheral) : Prop :=
  p.mode.extractLsb' 10 10 = 63#10 ∧ (p.cs.txon = true → FormatBits p.txc) ∧ (p.cs.rxon = true → FormatBits p.rxc)

/-- No two neighbouring words are both zero (R256). -/
def noZeroPair : List Word → Bool
  | a :: b :: rest => !(a == 0#32 && b == 0#32) && noZeroPair (b :: rest)
  | _ => true

/-! ## Invariants -/

/-- Memory keeps its canonical form. -/
def MemCanonical (s : State) : Prop := Memory.wf s.mem = true

/-- The FIFOs hold at most `P_FIFO_DEPTH` words (R61). -/
def FifosBounded (s : State) : Prop :=
  s.fifo.tx.length ≤ s.params.fifoDepth ∧ s.fifo.rx.length ≤ s.params.fifoDepth

/-- Reserved bits are stored as 0 (R59), and MODE_A holds no mode the model refuses (R189). -/
def ReservedZero (s : State) : Prop :=
  s.pr.mode &&& ~~~ modeKnown s.params.regmap.mode = 0#32 ∧ s.pr.mode &&& modeRefused s.params.regmap.mode = 0#32 ∧
    s.pr.rxc &&& ~~~ formatKnown s.params.regmap.fmt = 0#32 ∧ s.pr.txc &&& ~~~ formatKnown s.params.regmap.fmt = 0#32 ∧
    s.pr.dreq &&& ~~~ dreqKnown s.params.regmap.dreq = 0#32 ∧ s.pr.inten &&& ~~~ intKnown s.params.regmap.int = 0#32 ∧
    s.pr.intstc &&& ~~~ intKnown s.params.regmap.int = 0#32

/-- The SYNC echo's counter is 0, 1 or 2, and at 2 the echo has arrived (R75). -/
def SyncSettled (s : State) : Prop :=
  s.pipe.syncCnt ≤ 2 ∧ (s.pipe.syncCnt = 2 → s.pipe.syncR = s.pipe.syncW)

/-- A channel has a descriptor unless it is IDLE; its completions are those of a descriptor with the callback bit, which only
`P_CALLBACK_DIR`'s has; under coalescing at most one is pending (R70, R72, R291). -/
def ChannelSound (p : Params) (d : Dir) (c : Channel) : Prop :=
  (c.phase = .idle ↔ c.desc = none) ∧ (∀ x, c.desc = some x → x.cb = (d == p.callbackDir)) ∧
    (0 < c.pending → ∃ x, c.desc = some x ∧ x.cb = true) ∧ (p.delivery = .mayCoalesce → c.pending ≤ 1)

/-- Both channels are sound. -/
def ChannelsSound (s : State) : Prop :=
  ChannelSound s.params .rx s.dmaRx ∧ ChannelSound s.params .tx s.dmaTx

/-- Every descriptor a sequence prepares is prepared right after its guard and its slave configuration (R291). -/
def prepGuarded : List Micro → Bool
  | [] => true
  | .guardPrepare d :: .slaveConfig e :: .prepCyclic f :: rest => d == e && d == f && prepGuarded rest
  | .slaveConfig _ :: _ => false
  | .prepCyclic _ :: _ => false
  | _ :: rest => prepGuarded rest

/-- What CTRL has still to do prepares only IDLE channels (R71, R291). -/
def PrepareSafe (s : State) : Prop :=
  s.ctrl.m ≠ 0 →
    prepGuarded s.ctrl.todo = true ∨
      ∃ d rest, s.ctrl.todo = .prepCyclic d :: rest ∧ (s.chan d).phase = .idle ∧ prepGuarded rest = true

/-- The phase transitions of R71. -/
def PhaseStep : Phase → Phase → Prop
  | .idle, .prepared => True
  | .prepared, .submitted => True
  | .submitted, .running => True
  | .prepared, .stopping => True
  | .submitted, .stopping => True
  | .running, .stopping => True
  | .stopping, .stopped => True
  | .stopped, .idle => True
  | _, _ => False

/-- The coordinator's transitions: the table of R330. -/
def CoordStep : CoordState → CoordState → Prop
  | .unconfigured, .configured => True
  | .configured, .synchronizing => True
  | .synchronizing, .streaming => True
  | .synchronizing, .configured => True
  | .streaming, .configured => True
  | .unconfigured, .stopped => True
  | .configured, .stopped => True
  | .streaming, .stopped => True
  | _, _ => False

/-- An item that ends the command. -/
def isReturn : Micro → Bool
  | .ret _ => true
  | .retFirst => true
  | _ => false

/-- An item whose failure ends the command at once, or that belongs to a command other than START. -/
def mayFail : Micro → Bool
  | .alloc => true
  | .slaveConfig _ => true
  | .prepCyclic _ => true
  | .submit _ _ => true
  | .syncStatus inStart => !inStart
  | .syncPop inStart => !inStart
  | _ => false

/-- An item of the loop START runs (R340). -/
def inStartLoop : Micro → Bool
  | .syncStatus inStart => inStart
  | .syncPop inStart => inStart
  | _ => false

/-- A sequence changes `ctx.state` from `c` only as R330 says, by an item the command's return follows, and leaves SYNCHRONIZING
before it returns. -/
def coordGuarded (c : CoordState) : List Micro → Prop
  | [] => True
  | .setCoord x :: rest => CoordStep c x ∧ x ≠ .synchronizing ∧ rest.head?.any isReturn = true
  | mi :: rest =>
    if isReturn mi then c ≠ .synchronizing
    else (mayFail mi = true → c ≠ .synchronizing) ∧ (inStartLoop mi = true → c = .synchronizing) ∧ coordGuarded c rest

/-- What CTRL has still to do changes `ctx.state` only as R330 says, and SYNCHRONIZING is held only while a command runs (R330). -/
def CoordSafe (s : State) : Prop :=
  (s.ctrl.m = 0 → s.ctx.state ≠ .synchronizing) ∧ (s.ctrl.m ≠ 0 → coordGuarded s.ctx.state s.ctrl.todo)

/-- The stored bundle is one of the profile table's (R33, R212, R213). -/
def ProfileSound (s : State) : Prop :=
  s.ctx.resolved = true → ∃ id : BitVec 8, id.toNat < 3 ∧ s.ctx.profile = profileBundle s.params id

/-- A bus range lies in the buffer region (R101). -/
def InBuffer (r : Region) (base len : Nat) : Prop :=
  r.phys.toNat ≤ base ∧ base + len ≤ r.phys.toNat + r.size.toNat

/-- A descriptor covers whole words inside the region and the channel is at one of them (R103, R108, R293). -/
def DescFits (r : Region) (x : Desc) (pos : Word) : Prop :=
  InBuffer r x.base.toNat x.bufLen.toNat ∧ x.bufLen.toNat % 4 = 0 ∧ pos.toNat % 4 = 0 ∧ pos.toNat < x.bufLen.toNat

/-- Both directions' buffers lie in the region, as whole words (R103, R337). -/
def GeomFits (r : Region) (g : Geometry) : Prop :=
  InBuffer r g.rxBase.toNat g.bufLen.toNat ∧ InBuffer r g.txBase.toNat g.bufLen.toNat ∧ g.bufLen.toNat % 4 = 0 ∧
    0 < g.bufLen.toNat

/-- Geometry and descriptors stay in the region INIT allocated: DMA addresses "are computed from validated geometry" (R102, R103, R336). -/
def RegionSound (s : State) : Prop :=
  s.ctx.region.phys.toNat + s.ctx.region.size.toNat ≤ 2 ^ 32 ∧
    (s.ctx.geomValid = true → s.ctx.initDone = true ∧ GeomFits s.ctx.region s.ctx.geom) ∧
    (∀ d x, (s.chan d).desc = some x → s.ctx.initDone = true ∧ DescFits s.ctx.region x (s.chan d).pos) ∧
    (s.ctrl.m ≠ 0 → .alloc ∉ s.ctrl.todo ∧ ((∃ d, .prepCyclic d ∈ s.ctrl.todo) → s.ctx.geomValid = true))

/-- The active index names the half channel `P_CALLBACK_DIR` is transferring, once its pending completions are delivered (R384):
the channel runs a descriptor of two periods of whole words, under `exact` delivery. -/
def IndexTracks (s : State) : Prop :=
  s.params.delivery = .exact ∧
    ∃ x, (s.chan s.params.callbackDir).desc = some x ∧ x.cb = true ∧ 0 < x.periodLen.toNat ∧ x.periodLen.toNat % 4 = 0 ∧
      x.bufLen.toNat = 2 * x.periodLen.toNat ∧ (s.chan s.params.callbackDir).pos.toNat < x.bufLen.toNat ∧
      (s.chan s.params.callbackDir).pos.toNat % 4 = 0 ∧
      ((if s.ctx.bufIdx then 1 else 0) + (s.chan s.params.callbackDir).pending) % 2 = channelHalf x (s.chan s.params.callbackDir)

end Sys2Proof.Machine
end

