-- ==== Sys2Proof/Certificates/Slice0/Obligations.lean ====
section
/-! DEFINITION. The statements for the provers, each after the numbered rules of the spec it formalises. -/

open Sys2Proof Sys2Proof.Machine

/-! ## Encoding (30_encoding.md) -/

/-- R140 to R148: decoding the words of a well-formed command, whatever follows them, gives it back, to its own agent only. -/
def Obligations.DecodeEncode : Prop :=
  ∀ (i : Instr) (rest : List Word), WellFormed i = true →
    decode (encode i ++ rest) = .ok i ∧ decodeFor (cmdAgent i) (encode i ++ rest) = .ok i ∧
      ∀ a, a ≠ cmdAgent i → decodeFor a (encode i ++ rest) = .error (.illegal ((encode i).headD 0#32))

/-- R140 to R148: what decodes is well formed, and its words are the ones decoded: each command has one encoding. -/
def Obligations.DecodeSound : Prop :=
  ∀ (ws : List Word) (i : Instr), decode ws = .ok i → WellFormed i = true ∧ ∃ rest, ws = encode i ++ rest

/-- Words the spec writes out (R180, R181, R210, R253, R254, R291, R320, R332, R340, R341, R350, R352). -/
def Obligations.DecodedWords : Prop :=
  decode [0x02000008#32, 0x00B0FC20#32] = .ok (.regWrite 0x08#8 0x00B0FC20#32) ∧
    decode [0x01000000#32] = .ok (.regRead 0x00#8) ∧
    decode [0x10000002#32] = .ok (.resolve 2#8) ∧
    decode [0x21000032#32] = .ok (.primeTxFifo 50#16) ∧
    decode [0x22000003#32] = .ok (.syncFifos true true) ∧
    decode [0x30000001#32] = .ok (.dmaPrepare .tx) ∧
    decode [0x33000000#32] = .ok .periodCallback ∧
    decode [0x41000000#32, 0x40#32, 0x2#32] = .ok (.buffersSetup 64#32 2#32) ∧
    decode [0x42000001#32] = .ok .start ∧ decode [0x42000000#32] = .ok .stop ∧
    decode [0x50000000#32] = .ok .waitCompletion ∧ decode [0x51000000#32] = .ok .readBufIdx

/-- R149: every illegal encoding raises F_ILLEGAL_COMMAND in the stream that holds it. -/
def Obligations.IllegalEncodings : Prop :=
  ∀ (w : Word) (rest : List Word),
    (w.toNat / 2 ^ 24 ∉ [0x01, 0x02, 0x03, 0x10, 0x11, 0x12, 0x13, 0x20, 0x21, 0x22, 0x30, 0x31, 0x32, 0x40, 0x41, 0x42, 0x43,
        0x50, 0x51] ∨
      w.toNat / 2 ^ 16 % 256 ≠ 0 ∨
      (w.toNat / 2 ^ 24 ∈ [0x11, 0x12, 0x13, 0x31, 0x32, 0x41, 0x43, 0x50, 0x51] ∧ w.toNat % 2 ^ 16 ≠ 0) ∨
      (w.toNat / 2 ^ 24 ∈ [0x01, 0x02, 0x03, 0x10, 0x20, 0x22, 0x30, 0x40, 0x42] ∧ w.toNat / 2 ^ 8 % 256 ≠ 0) ∨
      (w.toNat / 2 ^ 24 ∈ [0x20, 0x22] ∧ 4 ≤ w.toNat % 256) ∨ (w.toNat / 2 ^ 24 ∈ [0x30, 0x42] ∧ 2 ≤ w.toNat % 256)) →
    (∀ s : State, s.ctrl.stream.drop s.ctrl.k = w :: rest →
      agentStep .ctrl s = .fault (.illegalCommand (.ctrl s.ctrl.k s.ctrl.m) w)) ∧
    (∀ s : State, s.cons.stream.drop s.cons.k = w :: rest →
      agentStep .cons s = .fault (.illegalCommand (.cons s.cons.k) w))

/-- R148: the decoder's checks in their order, on the fields of the word as numbers; a word that passes all of them decodes. -/
def Obligations.DecodeProcedure : Prop :=
  ∀ (a : CmdAgent) (w : Word) (rest : List Word),
    let opc := w.toNat / 2 ^ 24
    let arg := w.toNat % 256
    let agent : CmdAgent := if opc = 0x33 then .irq else if opc ∈ [0x50, 0x51] then .cons else .ctrl
    let ops := if opc = 0x02 then 1 else if opc ∈ [0x03, 0x41] then 2 else 0
    if opc ∉ [0x01, 0x02, 0x03, 0x10, 0x11, 0x12, 0x13, 0x20, 0x21, 0x22, 0x30, 0x31, 0x32, 0x33, 0x40, 0x41, 0x42, 0x43,
        0x50, 0x51] then decodeFor a (w :: rest) = .error (.illegal w)
    else if w.toNat / 2 ^ 16 % 256 ≠ 0 then decodeFor a (w :: rest) = .error (.illegal w)
    else if opc ∈ [0x11, 0x12, 0x13, 0x31, 0x32, 0x33, 0x41, 0x43, 0x50, 0x51] ∧ w.toNat % 2 ^ 16 ≠ 0 then
      decodeFor a (w :: rest) = .error (.illegal w)
    else if opc ∈ [0x01, 0x02, 0x03] ∧ w.toNat / 2 ^ 8 % 256 ≠ 0 then decodeFor a (w :: rest) = .error (.illegal w)
    else if opc ∈ [0x01, 0x02, 0x03] ∧ w.toNat % 4 ≠ 0 then decodeFor a (w :: rest) = .error (.badOffset w)
    else if opc ∈ [0x10, 0x20, 0x22, 0x30, 0x40, 0x42] ∧
        (w.toNat / 2 ^ 8 % 256 ≠ 0 ∨ (opc ∈ [0x20, 0x22] ∧ 4 ≤ arg) ∨ (opc ∈ [0x30, 0x42] ∧ 2 ≤ arg)) then
      decodeFor a (w :: rest) = .error (.illegal w)
    else if agent ≠ a then decodeFor a (w :: rest) = .error (.illegal w)
    else if rest.length < ops then decodeFor a (w :: rest) = .error (.truncated w)
    else ∃ i, decodeFor a (w :: rest) = .ok i ∧ cmdAgent i = a ∧ operandWords i = ops

/-! ## Steps (R12, R47, R48, R370, R390, R414, R416) -/

/-- R47, R48, R390: a step of an agent whose words decode runs the decoded command on the state with the move taken. -/
def Obligations.StepRunsDecoded : Prop :=
  ∀ s : State, NoFault s →
    (∀ i, (moveOf s.inputs).1 = .ctrl → decodeFor .ctrl (s.ctrl.stream.drop s.ctrl.k) = .ok i →
      step s = exec i { s with inputs := (moveOf s.inputs).2 }) ∧
    (∀ i, (moveOf s.inputs).1 = .cons → decodeFor .cons (s.cons.stream.drop s.cons.k) = .ok i →
      step s = exec i { s with inputs := (moveOf s.inputs).2 }) ∧
    ((moveOf s.inputs).1 = .irq → 0 < (s.chan s.params.callbackDir).pending →
      step s = exec .periodCallback { s with inputs := (moveOf s.inputs).2 })

/-- R414 to R416: a fault or a refusal is recorded and stops every agent for good; what its command did before it, register-only work of the same
micro-operation included, stays done; a launch outside items 3 and 5 to 7 never steps. -/
def Obligations.StopsForGood : Prop :=
  (∀ (s : State) (f : Fault), NoFault s → step s = .fault f →
      step (settle s (step s)) = .fault f ∧
        ∃ u : State, settle s (step s) = { u with faults := [f] } ∧ ((∀ k m, faultSite f ≠ .ctrl k m) → u = s) ∧
          u = { s with
            ctx := u.ctx
            ctrl := { s.ctrl with first := u.ctrl.first }
            traces := { s.traces with discardLog := u.traces.discardLog } }) ∧
    (∀ (s : State) (r : Refusal), NoFault s → step s = .refused r →
      step (settle s (step s)) = .refused r ∧
        ∃ u : State, settle s (step s) = { u with refused := some r } ∧
          u = { s with
            ctx := u.ctx
            ctrl := { s.ctrl with first := u.ctrl.first }
            traces := { s.traces with discardLog := u.traces.discardLog, events := u.traces.events } }) ∧
    (∀ (s : State) (pf cc : Word), NoFault s → (moveOf s.inputs).1 = .ctrl → AtStart s →
      decodeFor .ctrl (s.ctrl.stream.drop s.ctrl.k) = .ok (.buffersSetup pf cc) → s.ctx.state = .unconfigured →
      s.ctx.initDone = true → geometryOk pf cc s.ctx.region.size = true → s.dmaRx.phase ≠ .idle →
      step s = .fault (.illegalState (.ctrl s.ctrl.k 0) .dmaPrepare) ∧
        settle s (step s) =
          { s with
            ctx := { s.ctx with geom := geometryOf s.ctx.region.phys pf cc, geomValid := true }
            faults := [.illegalState (.ctrl s.ctrl.k 0) .dmaPrepare] }) ∧
    (∀ (s : State) (i : Instr) (e mask val : Word) (r : Reg) (rest : List Micro), NoFault s → (moveOf s.inputs).1 = .ctrl →
      s.ctrl.m ≠ 0 → decodeFor .ctrl (s.ctrl.stream.drop s.ctrl.k) = .ok i →
      s.ctrl.todo = .clearPoll e 0 :: .updRead r mask val :: rest → s.params.busMayFail = true →
      (answerOf (moveOf s.inputs).2).1 = false →
      let f := Fault.bus (.ctrl s.ctrl.k s.ctrl.m) (regOffset s.params.regmap r)
      step s = .fault f ∧
        settle s (step s) =
          { s with ctx := { s.ctx with clearTimeouts := s.ctx.clearTimeouts + 1#32 }, faults := [f] }) ∧
    (∀ s : State,
      (s.params.relayEnabled = true ∨
        ¬(s.params.posDefault.1 ≤ 31 ∧ s.params.posDefault.2 = s.params.posDefault.1 + 32) ∨
        ¬(1 ≤ s.params.posShifted.1 ∧ s.params.posShifted.1 ≤ 31 ∧ s.params.posShifted.2 = s.params.posShifted.1 + 32) ∨
        ¬(s.params.posBcp.1 ≤ 31 ∧ s.params.posBcp.2 = s.params.posBcp.1 + 32) ∨
        127 < s.params.dreqRx ∨ 127 < s.params.dreqTx ∨ 127 < s.params.panicRx ∨ 127 < s.params.panicTx ∨
        3 < s.params.rxThr ∨ 3 < s.params.txThr ∨ s.params.fifoDepth = 0 ∨ s.params.clearPollLimit = 0 ∨
        s.params.syncPollLimit = some 0) →
      step s = .refused .relayLaunch ∨ step s = .refused .positionLaunch ∨ step s = .refused .levelLaunch ∨
        step s = .refused .pollLaunch)

/-! ## Reset (R80, R81) -/

/-- R80: the block right after its reset. -/
def Obligations.ResetState : Prop :=
  State.reset.ctx.state = .unconfigured ∧
    (State.reset.ctx.initDone = false ∧ State.reset.ctx.resolved = false ∧ State.reset.ctx.configured = false ∧
      State.reset.ctx.geomValid = false) ∧
    State.reset.ctx.profile = ⟨0#8, false, false, 0#32, 0#10, 0#10, 0#9, 0#9⟩ ∧
    (State.reset.ctx.clkRate = 0#32 ∧ State.reset.ctx.clkRateErr = false) ∧
    (State.reset.ctx.region = ⟨0#32, 0#32, 0#32⟩ ∧ State.reset.ctx.geom = ⟨0#32, 0#32, 0#32, 0#32, 0#32, 0#32, 0#32⟩) ∧
    (State.reset.ctx.irqCount = 0#32 ∧ State.reset.ctx.bufIdx = false ∧ State.reset.ctx.notify = false ∧
      State.reset.ctx.result = .ok) ∧
    (agentStep (.hostRead .lastRead) State.reset = .fault (.unwritten .host .lastRead) ∧
      agentStep (.hostRead .consIdx) State.reset = .fault (.unwritten .host .consIdx)) ∧
    (State.reset.ctx.sync = ⟨0#32, 0#32, false, 0#32⟩ ∧ State.reset.ctx.clearTimeouts = 0#32 ∧
      State.reset.ctx.dmaErrors = 0#32 ∧ State.reset.ctx.relayEnabled = false) ∧
    (∀ d, State.reset.chan d = ⟨.idle, none, none, 0#32, 0, false⟩) ∧ State.reset.clkEnabled = false ∧
    (State.reset.ctrl.k = 0 ∧ State.reset.ctrl.m = 0 ∧ State.reset.cons.k = 0) ∧
    (State.reset.faults = [] ∧ State.reset.refused = none ∧ State.reset.traces = ⟨[], [], []⟩)

/-- Every invariant the steps keep holds right after reset, and so does P_LAUNCH_CLEAN (R81). -/
def Obligations.InvariantsAtReset : Prop :=
  LaunchClean State.reset ∧ NoFault State.reset ∧ MemCanonical State.reset ∧ FifosBounded State.reset ∧
    ReservedZero State.reset ∧ SyncSettled State.reset ∧ ChannelsSound State.reset ∧ PrepareSafe State.reset ∧
    CoordSafe State.reset ∧ ProfileSound State.reset ∧ RegionSound State.reset

/-! ## Register interface (40_register_interface.md) -/

/-- R185, R180: REG_READ of CS_A answers the bits of R185 and changes nothing else. -/
def Obligations.ReadCsA : Prop :=
  ∀ s : State, AtStart s → DefaultLayout s → BusReliable s →
    ∃ v : Word,
      exec (.regRead 0x00#8) s =
        .next { s with
          ctx := { s.ctx with lastRead := some v, result := .ok }
          ctrl := ctrlPast s.ctrl 0
          inputs := (drawOf s.inputs).2 } ∧
      v.getLsbD 0 = s.pr.cs.en ∧ v.getLsbD 1 = s.pr.cs.rxon ∧ v.getLsbD 2 = s.pr.cs.txon ∧ v.getLsbD 3 = false ∧
      v.getLsbD 4 = false ∧ v.extractLsb' 5 2 = s.pr.cs.txthr ∧ v.extractLsb' 7 2 = s.pr.cs.rxthr ∧
      v.getLsbD 9 = s.pr.cs.dmaen ∧
      (∀ b ∈ [10, 11, 12, 13, 14, 26, 27, 28, 29, 30, 31], v.getLsbD b = (drawOf s.inputs).1.getLsbD b) ∧
      v.getLsbD 15 = s.pr.cs.txerr ∧ v.getLsbD 16 = s.pr.cs.rxerr ∧
      v.getLsbD 17 = decide (s.fifo.tx.length ≤ levelOf s.params.txwLevel s.pr.cs.txthr) ∧
      v.getLsbD 18 = decide (levelOf s.params.rxrLevel s.pr.cs.rxthr ≤ s.fifo.rx.length) ∧
      v.getLsbD 19 = decide (s.fifo.tx.length < s.params.fifoDepth) ∧ v.getLsbD 20 = decide (0 < s.fifo.rx.length) ∧
      v.getLsbD 21 = decide (s.fifo.tx.length = 0) ∧ v.getLsbD 22 = decide (s.fifo.rx.length = s.params.fifoDepth) ∧
      v.getLsbD 23 = s.pr.cs.rxsex ∧ v.getLsbD 24 = s.pipe.syncR ∧ v.getLsbD 25 = s.pr.cs.stby

/-- R186, R75, R76, R181: REG_WRITE of CS_A stores its fields, clears flags written as 1, starts clears and restarts the SYNC echo. -/
def Obligations.WriteCsA : Prop :=
  ∀ (s : State) (v : Word), AtStart s → DefaultLayout s → BusReliable s →
    exec (.regWrite 0x00#8 v) s =
      .next { s with
        pr := { s.pr with
          cs := ⟨v.getLsbD 0, v.getLsbD 1, v.getLsbD 2, v.extractLsb' 5 2, v.extractLsb' 7 2, v.getLsbD 9,
            if v.getLsbD 15 = true then false else s.pr.cs.txerr, if v.getLsbD 16 = true then false else s.pr.cs.rxerr,
            v.getLsbD 23, v.getLsbD 25⟩ }
        pipe := { s.pipe with
          clrTx := if v.getLsbD 3 = true ∧ s.pipe.clrTx = .none then .zero else s.pipe.clrTx
          clrRx := if v.getLsbD 4 = true ∧ s.pipe.clrRx = .none then .zero else s.pipe.clrRx
          syncW := v.getLsbD 24
          syncCnt := if v.getLsbD 24 ≠ s.pipe.syncW then 0 else s.pipe.syncCnt }
        ctx := { s.ctx with result := .ok }
        ctrl := ctrlPast s.ctrl 1 }

/-- R187, R188, R444: FIFO_A pops the RX FIFO and pushes the TX FIFO, and faults with EN or STBY 0. -/
def Obligations.FifoAccesses : Prop :=
  ∀ s : State, AtStart s → DefaultLayout s → BusReliable s →
    (s.pr.cs.stby = false ∨ s.pr.cs.en = false →
      exec (.regRead 0x04#8) s = .fault (.fifoOff (.ctrl s.ctrl.k 0) .read) ∧
        ∀ v, exec (.regWrite 0x04#8 v) s = .fault (.fifoOff (.ctrl s.ctrl.k 0) .write)) ∧
    (FifoOpen s → ∀ e rest, s.fifo.rx = e :: rest →
      exec (.regRead 0x04#8) s =
        .next { s with
          fifo := { s.fifo with rx := rest }
          ctx := { s.ctx with lastRead := some e.word, result := .ok }
          ctrl := ctrlPast s.ctrl 0 }) ∧
    (FifoOpen s → s.fifo.rx = [] →
      exec (.regRead 0x04#8) s =
        .next { s with
          pr := { s.pr with cs := { s.pr.cs with rxerr := true }, intstc := s.pr.intstc ||| 0x8#32 }
          ctx := { s.ctx with lastRead := some (drawOf s.inputs).1, result := .ok }
          ctrl := ctrlPast s.ctrl 0
          inputs := (drawOf s.inputs).2 }) ∧
    (FifoOpen s → ∀ v,
      (s.fifo.tx.length < s.params.fifoDepth →
        exec (.regWrite 0x04#8 v) s =
          .next { s with
            fifo := { s.fifo with tx := s.fifo.tx ++ [v] }
            ctx := { s.ctx with result := .ok }
            ctrl := ctrlPast s.ctrl 1 }) ∧
      (s.params.fifoDepth ≤ s.fifo.tx.length →
        exec (.regWrite 0x04#8 v) s = .fault (.txOverflow (.ctrl s.ctrl.k 0) v)))

/-- R189, R59: MODE_A, RXC_A, TXC_A, DREQ_A and INTEN_A; the refused MODE_A writes; and the SLOT fault on other layouts. -/
def Obligations.PlainRegisters : Prop :=
  ∀ s : State, AtStart s → DefaultLayout s → BusReliable s →
    (∀ x ∈ [((0x08#8 : BitVec 8), s.pr.mode, 0x1FFFFFFF#32), (0x0C#8, s.pr.rxc, 0xFFFFFFFF#32), (0x10#8, s.pr.txc, 0xFFFFFFFF#32),
        (0x14#8, s.pr.dreq, 0x7F7F7F7F#32), (0x18#8, s.pr.inten, 0x0000000F#32)],
      exec (.regRead x.1) s =
        .next { s with
          ctx := { s.ctx with
            lastRead := some ((x.2.1 &&& x.2.2) ||| ((drawOf s.inputs).1 &&& ~~~x.2.2))
            result := .ok }
          ctrl := ctrlPast s.ctrl 0
          inputs := (drawOf s.inputs).2 }) ∧
    (∀ v : Word,
      (v.getLsbD 22 = true ∨ v.getLsbD 24 = true ∨ v.getLsbD 25 = true ∨ v.getLsbD 26 = true ∨ v.getLsbD 27 = true →
        exec (.regWrite 0x08#8 v) s = .refused (.modeUnmodelled v)) ∧
      (v.getLsbD 22 = false ∧ v.getLsbD 24 = false ∧ v.getLsbD 25 = false ∧ v.getLsbD 26 = false ∧ v.getLsbD 27 = false →
        exec (.regWrite 0x08#8 v) s =
          .next { s with pr := { s.pr with mode := v &&& 0x1FFFFFFF#32 }, ctx := { s.ctx with result := .ok }, ctrl := ctrlPast s.ctrl 1 }) ∧
      exec (.regWrite 0x0C#8 v) s =
        .next { s with pr := { s.pr with rxc := v }, ctx := { s.ctx with result := .ok }, ctrl := ctrlPast s.ctrl 1 } ∧
      exec (.regWrite 0x10#8 v) s =
        .next { s with pr := { s.pr with txc := v }, ctx := { s.ctx with result := .ok }, ctrl := ctrlPast s.ctrl 1 } ∧
      exec (.regWrite 0x14#8 v) s =
        .next { s with pr := { s.pr with dreq := v &&& 0x7F7F7F7F#32 }, ctx := { s.ctx with result := .ok }, ctrl := ctrlPast s.ctrl 1 } ∧
      exec (.regWrite 0x18#8 v) s =
        .next { s with pr := { s.pr with inten := v &&& 0xF#32 }, ctx := { s.ctx with result := .ok }, ctrl := ctrlPast s.ctrl 1 }) ∧
    (slotEnabled s = true → ¬LayoutBits s.pr →
      agentStep .slot s = .fault (.frameUnmodelled .pcm s.pr.mode s.pr.rxc s.pr.txc))

/-- R190, R191: INTSTC_A reads its four bits and clears the ones written as 1; GRAY reads a draw and its write is refused. -/
def Obligations.IntstcAndGray : Prop :=
  ∀ s : State, AtStart s → DefaultLayout s → BusReliable s →
    exec (.regRead 0x1C#8) s =
      .next { s with
        ctx := { s.ctx with
          lastRead := some ((s.pr.intstc &&& 0xF#32) ||| ((drawOf s.inputs).1 &&& 0xFFFFFFF0#32))
          result := .ok }
        ctrl := ctrlPast s.ctrl 0
        inputs := (drawOf s.inputs).2 } ∧
    (∀ v, exec (.regWrite 0x1C#8 v) s =
      .next { s with
        pr := { s.pr with intstc := s.pr.intstc &&& ~~~v }
        ctx := { s.ctx with result := .ok }
        ctrl := ctrlPast s.ctrl 1 }) ∧
    exec (.regRead 0x20#8) s =
      .next { s with
        ctx := { s.ctx with lastRead := some (drawOf s.inputs).1, result := .ok }
        ctrl := ctrlPast s.ctrl 0
        inputs := (drawOf s.inputs).2 } ∧
    (∀ v, exec (.regWrite 0x20#8 v) s = .refused (.grayWrite v))

/-- R184: an offset the block does not decode faults before any access; a misaligned one faults in the decoder. -/
def Obligations.BadOffset : Prop :=
  (∀ (s : State) (off : BitVec 8), AtStart s → DefaultLayout s →
      off ∉ [0x00#8, 0x04#8, 0x08#8, 0x0C#8, 0x10#8, 0x14#8, 0x18#8, 0x1C#8, 0x20#8] →
      exec (.regRead off) s = .fault (.badOffset (.ctrl s.ctrl.k 0) (off.setWidth 32)) ∧
        (∀ v, exec (.regWrite off v) s = .fault (.badOffset (.ctrl s.ctrl.k 0) (off.setWidth 32))) ∧
        ∀ m v, exec (.regUpdateBits off m v) s = .fault (.badOffset (.ctrl s.ctrl.k 0) (off.setWidth 32))) ∧
    ∀ (a : CmdAgent) (w : Word) (rest : List Word), w.toNat / 2 ^ 24 ∈ [0x01, 0x02, 0x03] → w.toNat / 2 ^ 8 % 2 ^ 16 = 0 →
      w.toNat % 4 ≠ 0 → decodeFor a (w :: rest) = .error (.badOffset w)

/-- R182, R12, R183: `UpdateBits` is a read, then in a later step a write of the computed word, skipped when nothing changes. -/
def Obligations.UpdateBitsHalves : Prop :=
  (∀ (s t : State) (off : BitVec 8) (r : Reg) (mask val old : Word), AtStart s →
      regAt s.params.regmap (off.setWidth 32) = some r → regRead r s = .ok old t →
      exec (.regUpdateBits off mask val) s =
        .next { t with ctrl := ctrlOn t.ctrl [.updWrite r old mask val, .ret .ok] }) ∧
    ∀ (s : State) (off : BitVec 8) (r : Reg) (mask val old : Word), s.ctrl.m ≠ 0 →
      s.ctrl.todo = [.updWrite r old mask val, .ret .ok] →
      let new := (old &&& ~~~mask) ||| (val &&& mask)
      (new = old ∧ s.params.updateAlwaysWrites = false →
        exec (.regUpdateBits off mask val) s =
          .next { s with ctx := { s.ctx with result := .ok }, ctrl := ctrlPast s.ctrl 2 }) ∧
      (new ≠ old ∨ s.params.updateAlwaysWrites = true →
        (∀ t, regWrite r new s = .ok () t →
          exec (.regUpdateBits off mask val) s =
            .next { t with ctx := { t.ctx with result := .ok }, ctrl := ctrlPast t.ctrl 2 }) ∧
        (∀ f, regWrite r new s = .fault f → exec (.regUpdateBits off mask val) s = .fault f) ∧
        ∀ x, regWrite r new s = .refused x → exec (.regUpdateBits off mask val) s = .refused x)

/-- R183, R182, R463: REG_UPDATE_BITS of CS_A with no other agent between its halves sets the masked fields, keeps the others, and
clears the error flags it writes back as read. -/
def Obligations.UpdateCsWhole : Prop :=
  ∀ (s : State) (mask val : Word), AtStart s → DefaultLayout s → BusReliable s → s.params.updateAlwaysWrites = false →
    ∃ (s1 t : State) (old : Word),
      exec (.regUpdateBits 0x00#8 mask val) s = .next s1 ∧ exec (.regUpdateBits 0x00#8 mask val) s1 = .next t ∧
      regRead .csA s = .ok old (s.setInputs (drawOf s.inputs).2) ∧
      (let new := (old &&& ~~~mask) ||| (val &&& mask)
      t = { s with
        pr := { s.pr with
          cs := ⟨new.getLsbD 0, new.getLsbD 1, new.getLsbD 2, new.extractLsb' 5 2, new.extractLsb' 7 2, new.getLsbD 9,
            if new ≠ old ∧ new.getLsbD 15 = true then false else s.pr.cs.txerr,
            if new ≠ old ∧ new.getLsbD 16 = true then false else s.pr.cs.rxerr,
            new.getLsbD 23, new.getLsbD 25⟩ }
        pipe := { s.pipe with
          clrTx := if new ≠ old ∧ new.getLsbD 3 = true ∧ s.pipe.clrTx = .none then .zero else s.pipe.clrTx
          clrRx := if new ≠ old ∧ new.getLsbD 4 = true ∧ s.pipe.clrRx = .none then .zero else s.pipe.clrRx
          syncW := if new ≠ old then new.getLsbD 24 else s.pipe.syncW
          syncCnt := if new ≠ old ∧ new.getLsbD 24 ≠ s.pipe.syncW then 0 else s.pipe.syncCnt }
        ctx := { s.ctx with result := .ok }
        ctrl := ctrlPast s.ctrl 2
        inputs := (drawOf s.inputs).2 })

/-- R192: no access fails unless `P_BUS_MAY_FAIL`; with it, an access the oracle fails raises F_BUS and stops the command, whether it is the
command's first access or a later one, also behind register-only work of the same micro-operation. -/
def Obligations.BusFailure : Prop :=
  (∀ (s : State) (r : Reg) (v : Word) (site : Site) (off : Word), s.params.busMayFail = false →
      regRead r s ≠ .fault (.bus site off) ∧ regWrite r v s ≠ .fault (.bus site off)) ∧
    ∀ s : State, s.params.busMayFail = true → (answerOf s.inputs).1 = false →
      let failed := fun m r => Host.Outcome.fault (σ := State) (ρ := Refusal) (Fault.bus (.ctrl s.ctrl.k m) (regOffset s.params.regmap r))
      (∀ r v, regRead r s = .fault (.bus (.ctrl s.ctrl.k s.ctrl.m) (regOffset s.params.regmap r)) ∧
        regWrite r v s = .fault (.bus (.ctrl s.ctrl.k s.ctrl.m) (regOffset s.params.regmap r))) ∧
      (AtStart s →
        (∀ off r, regAt s.params.regmap (off.setWidth 32) = some r →
          exec (.regRead off) s = failed 0 r ∧ (∀ v, exec (.regWrite off v) s = failed 0 r) ∧
            ∀ m v, exec (.regUpdateBits off m v) s = failed 0 r) ∧
        exec .clearRegisters s = failed 0 .modeA ∧
        (s.ctx.resolved = true → s.ctx.profile.bclkMaster = false → exec .configure s = failed 0 .modeA) ∧
        (s.ctx.configured = true → exec .enable s = failed 0 .csA) ∧
        (∀ tx rx, exec (.clearFifos tx rx) s = failed 0 .csA ∧ exec (.syncFifos tx rx) s = failed 0 .csA) ∧
        (∀ n, n ≠ 0#16 → exec (.primeTxFifo n) s = failed 0 .fifoA) ∧
        (s.ctx.state = .configured → exec .start s = failed 0 .csA) ∧
        (s.ctx.state = .streaming → exec .stop s = failed 0 .csA)) ∧
      ∀ i mi r, cmdAgent i = .ctrl → s.ctrl.m ≠ 0 →
        (nextAccess s = some mi ∨
          ∃ pre rest, s.ctrl.todo = pre ++ mi :: rest ∧
            (pre = [] ∨ pre = [.syncInit] ∨ pre = [.countRead] ∨ (∃ e, pre = [.clearPoll e 0]) ∨ (∃ w, pre = [.countPop w]) ∨
              (∃ w, pre = [.countPop w, .retain w]) ∨ (∃ b, pre = [.noteRate b]) ∨ (∃ b, pre = [.setConfigured b]) ∨
              (pre = [.guardResolved] ∧ s.ctx.resolved = true) ∨ (pre = [.guardConfigured] ∧ s.ctx.configured = true) ∨
              (∃ b, pre = [.setConfigured b, .guardResolved] ∧ s.ctx.resolved = true) ∨
              pre = [.setConfigured true, .guardConfigured])) →
        (mi = .readReg r ∨ (∃ v, mi = .writeReg r v) ∨ (∃ m v, mi = .updRead r m v) ∨
          (∃ o m v, mi = .updWrite r o m v ∧ ((o &&& ~~~m) ||| (v &&& m) ≠ o ∨ s.params.updateAlwaysWrites = true)) ∨
          (r = .csA ∧ ((∃ tx rx, mi = .clearSave tx rx) ∨ mi = .clearEcho ∨ (∃ e n, mi = .clearPoll e (n + 1)) ∨
            ∃ b, mi = .syncStatus b)) ∨
          (r = .fifoA ∧ ((∃ n, mi = .prime (n + 1)) ∨ mi = .syncPush ∨ ∃ b, mi = .syncPop b))) →
        exec i s = failed s.ctrl.m r

/-! ## Profile resolver and configurator (41_profile_configurator.md) -/

/-- R210, R211, R213: RESOLVE stores the bundle of its profile once; an unknown byte follows the policy. -/
def Obligations.Resolve : Prop :=
  ∀ (s : State) (p : BitVec 8), AtStart s →
    (3 ≤ p.toNat ∧ s.params.unknownProfile = .error →
      exec (.resolve p) s =
        .next { s with ctx := { s.ctx with result := .unknownProfile }, ctrl := ctrlPast s.ctrl 0 }) ∧
    (p.toNat < 3 ∨ s.params.unknownProfile = .fallbackDefault →
      let bundle := profileBundle s.params (if p.toNat < 3 then p else 0#8)
      (s.ctx.resolved = false →
        exec (.resolve p) s =
          .next { s with
            ctx := { s.ctx with profile := bundle, resolved := true, result := .ok }
            ctrl := ctrlPast s.ctrl 0 }) ∧
      (s.ctx.resolved = true ∧ bundle = s.ctx.profile →
        exec (.resolve p) s = .next { s with ctx := { s.ctx with result := .ok }, ctrl := ctrlPast s.ctrl 0 }) ∧
      (s.ctx.resolved = true ∧ bundle ≠ s.ctx.profile →
        exec (.resolve p) s = .fault (.illegalState (.ctrl s.ctrl.k 0) .resolve)))

/-- R212: the profile table, for launches that are not refused and a rate that fits 32 bits. -/
def Obligations.ProfileTable : Prop :=
  ∀ p : Params, launchRefusal p = none → 64 * p.sampleRate < 2 ^ 32 →
    (∀ c1 c2, p.posDefault = (c1, c2) →
      profileBundle p 0#8 = ⟨0#8, false, false, 0#32, 64#10, 32#10, BitVec.ofNat 9 c1, BitVec.ofNat 9 c2⟩ ∧
        c1 ≤ 31 ∧ c2 = c1 + 32) ∧
    (∀ c1 c2, p.posShifted = (c1, c2) →
      profileBundle p 1#8 = ⟨1#8, false, false, 0#32, 64#10, 32#10, BitVec.ofNat 9 c1, BitVec.ofNat 9 c2⟩ ∧
        1 ≤ c1 ∧ c1 ≤ 31 ∧ c2 = c1 + 32) ∧
    (∀ c1 c2, p.posBcp = (c1, c2) →
      (profileBundle p 2#8).bclkRate.toNat = 64 * p.sampleRate ∧
      profileBundle p 2#8 =
          ⟨2#8, true, true, (profileBundle p 2#8).bclkRate, 64#10, 32#10, BitVec.ofNat 9 c1, BitVec.ofNat 9 c2⟩ ∧
        c1 ≤ 31 ∧ c2 = c1 + 32)

/-- R214: CLEAR_REGISTERS zeroes five registers, one access each in the spec's order, and writes no other. -/
def Obligations.ClearRegisters : Prop :=
  ∀ s : State, AtStart s → BusReliable s →
    ∃ s1 s2 s3 s4,
      exec .clearRegisters s = .next s1 ∧ s1.pr = { s.pr with mode := 0#32 } ∧
      exec .clearRegisters s1 = .next s2 ∧ s2.pr = { s1.pr with rxc := 0#32 } ∧
      exec .clearRegisters s2 = .next s3 ∧ s3.pr = { s2.pr with txc := 0#32 } ∧
      exec .clearRegisters s3 = .next s4 ∧ s4.pr = { s3.pr with dreq := 0#32 } ∧
      exec .clearRegisters s4 =
        .next { s with
          pr := { s.pr with mode := 0#32, rxc := 0#32, txc := 0#32, dreq := 0#32, inten := 0#32 }
          ctx := { s.ctx with configured := false, result := .ok }
          ctrl := ctrlPast s.ctrl 0 }

/-- R215, R217 to R222: CONFIGURE of a slave profile, no other agent stepping in between. -/
def Obligations.ConfigureSlave : Prop :=
  ∀ (s : State) (id : BitVec 8), AtStart s → DefaultLayout s → BusReliable s → launchRefusal s.params = none →
    s.ctx.resolved = true → id.toNat < 2 → s.ctx.profile = profileBundle s.params id →
    let pos := if id = 0#8 then s.params.posDefault else s.params.posShifted
    let fmt : Word := 0xC008C008#32 ||| BitVec.ofNat 32 (pos.1 * 2 ^ 20) ||| BitVec.ofNat 32 (pos.2 * 2 ^ 4)
    let same : Prop := s.params.updateAlwaysWrites = false ∧ s.pr.cs.txthr = BitVec.ofNat 2 s.params.txThr ∧
      s.pr.cs.rxthr = BitVec.ofNat 2 s.params.rxThr ∧ s.pr.cs.dmaen = true
    ∃ (s1 t : State) (inp : Inputs),
      exec .configure s = .next s1 ∧ execFor .configure 7 s1 = .next t ∧
      (same → t.pr.cs = s.pr.cs ∧ t.pipe = s.pipe) ∧
      (¬same →
        t.pr.cs =
            { s.pr.cs with
              txthr := BitVec.ofNat 2 s.params.txThr
              rxthr := BitVec.ofNat 2 s.params.rxThr
              dmaen := true
              txerr := false
              rxerr := false } ∧
          t.pipe = echoBack s.pipe) ∧
      (∀ cs, LayoutBits { t.pr with cs := cs }) ∧
      t = { s with
        ctx := { s.ctx with configured := true, result := .ok }
        pr := { s.pr with
          cs := t.pr.cs
          mode := 0x00B0FC20#32
          rxc := fmt
          txc := fmt
          dreq := BitVec.ofNat 32
            (s.params.panicTx * 2 ^ 24 + s.params.panicRx * 2 ^ 16 + s.params.dreqTx * 2 ^ 8 + s.params.dreqRx) }
        pipe := t.pipe
        ctrl := ctrlPast s.ctrl 0
        inputs := inp }

/-- R215 to R222: CONFIGURE of bit-clock-provider: the two clock calls come before any register access; a refused rate is recorded and not
fatal. -/
def Obligations.ConfigureMaster : Prop :=
  ∀ (s : State) (a b : Bool) (as : List Bool), AtStart s → DefaultLayout s → BusReliable s →
    launchRefusal s.params = none → s.ctx.resolved = true → s.ctx.profile = profileBundle s.params 2#8 →
    s.inputs.answers = a :: b :: as →
    let fmt : Word :=
      0xC008C008#32 ||| BitVec.ofNat 32 (s.params.posBcp.1 * 2 ^ 20) ||| BitVec.ofNat 32 (s.params.posBcp.2 * 2 ^ 4)
    let same : Prop := s.params.updateAlwaysWrites = false ∧ s.pr.cs.txthr = BitVec.ofNat 2 s.params.txThr ∧
      s.pr.cs.rxthr = BitVec.ofNat 2 s.params.rxThr ∧ s.pr.cs.dmaen = true
    ∃ (s1 s2 t : State) (inp : Inputs),
      exec .configure s = .next s1 ∧
      (s1.pr = s.pr ∧ s1.pipe = s.pipe ∧ s1.clkEnabled = s.clkEnabled ∧
        s1.traces.events = s.traces.events ++ [.clkSetRate s.ctx.profile.bclkRate a]) ∧
      exec .configure s1 = .next s2 ∧
      (s2.pr = s.pr ∧ s2.pipe = s.pipe ∧ s2.clkEnabled = b ∧ s2.ctx.clkRate = s.ctx.profile.bclkRate ∧
        s2.ctx.clkRateErr = (s.ctx.clkRateErr || !a) ∧ s2.traces.events = s1.traces.events ++ [.clkEnable b]) ∧
      execFor .configure 8 s2 = .next t ∧
      (same → t.pr.cs = s.pr.cs ∧ t.pipe = s.pipe) ∧
      (¬same →
        t.pr.cs =
            { s.pr.cs with
              txthr := BitVec.ofNat 2 s.params.txThr
              rxthr := BitVec.ofNat 2 s.params.rxThr
              dmaen := true
              txerr := false
              rxerr := false } ∧
          t.pipe = echoBack s.pipe) ∧
      (∀ cs, LayoutBits { t.pr with cs := cs }) ∧
      t = { s with
        ctx := { s.ctx with
          clkRate := s.ctx.profile.bclkRate
          clkRateErr := s.ctx.clkRateErr || !a
          configured := true
          result := .ok }
        pr := { s.pr with
          cs := t.pr.cs
          mode := 0x0010FC20#32
          rxc := fmt
          txc := fmt
          dreq := BitVec.ofNat 32
            (s.params.panicTx * 2 ^ 24 + s.params.panicRx * 2 ^ 16 + s.params.dreqTx * 2 ^ 8 + s.params.dreqRx) }
        pipe := t.pipe
        clkEnabled := b
        traces := { s.traces with
          events := s.traces.events ++ [.clkSetRate s.ctx.profile.bclkRate a, .clkEnable b] }
        ctrl := ctrlPast s.ctrl 0
        inputs := inp }

/-- R223: ENABLE sets STBY, then the two error interrupts, then EN, each by an `UpdateBits`, and nothing but what those carry back. -/
def Obligations.Enable : Prop :=
  ∀ s : State, AtStart s → DefaultLayout s → BusReliable s → ReservedZero s → s.ctx.configured = true →
    let same : Prop := s.params.updateAlwaysWrites = false ∧ s.pr.cs.stby = true ∧ s.pr.cs.en = true
    ∃ (s1 s2 s3 s4 s5 t : State) (inp : Inputs),
      (exec .enable s = .next s1 ∧ s1.pr = s.pr) ∧
      (exec .enable s1 = .next s2 ∧ s2.pr.cs.stby = true ∧ s2.pr.cs.en = s.pr.cs.en ∧
        s2.pr = { s.pr with
          cs := { s.pr.cs with stby := true, txerr := s2.pr.cs.txerr, rxerr := s2.pr.cs.rxerr } }) ∧
      (exec .enable s2 = .next s3 ∧ s3.pr = s2.pr) ∧
      (exec .enable s3 = .next s4 ∧ s4.pr = { s2.pr with inten := s.pr.inten ||| 0xC#32 }) ∧
      (exec .enable s4 = .next s5 ∧ s5.pr = s4.pr) ∧
      exec .enable s5 = .next t ∧
      (same → t.pr.cs = s.pr.cs ∧ t.pipe = s.pipe) ∧
      (¬same →
        t.pr.cs = { s.pr.cs with stby := true, en := true, txerr := false, rxerr := false } ∧ t.pipe = echoBack s.pipe) ∧
      t = { s with
        ctx := { s.ctx with result := .ok }
        pr := { s.pr with cs := t.pr.cs, inten := s.pr.inten ||| 0xC#32 }
        pipe := t.pipe
        ctrl := ctrlPast s.ctrl 0
        inputs := inp }

/-- R215, R223, R291, R294, R338, R415: the guards, checked before any micro-operation. -/
def Obligations.Guards : Prop :=
  ∀ s : State, AtStart s →
    let bad := fun c => Host.Outcome.fault (σ := State) (ρ := Refusal) (Fault.illegalState (.ctrl s.ctrl.k 0) c)
    (s.ctx.resolved = false → exec .configure s = bad .configure) ∧
    (s.ctx.configured = false → exec .enable s = bad .enable) ∧
    (∀ d, (s.chan d).phase ≠ .idle ∨ s.ctx.geomValid = false → exec (.dmaPrepare d) s = bad .dmaPrepare) ∧
    (s.dmaRx.phase ≠ .prepared ∨ s.dmaTx.phase ≠ .prepared → exec .dmaSubmit s = bad .dmaSubmit) ∧
    (∀ p, s.ctx.state ≠ .unconfigured ∨ s.ctx.initDone = true → exec (.init p) s = bad .init) ∧
    (∀ pf cc, s.ctx.state ≠ .unconfigured ∨ s.ctx.initDone = false → exec (.buffersSetup pf cc) s = bad .buffersSetup) ∧
    (s.ctx.state ≠ .configured → exec .start s = bad .start) ∧
    (s.ctx.state = .stopped → exec .exit s = bad .exit)

/-! ## FIFO clearing, priming and synchronizer (42_fifo.md) -/

/-- R250, R251, R252, R461: CLEAR_FIFOS with no PCM clock in between: the poll times out, the clears stay pending, the enables end as
they were, and the result is OK. -/
def Obligations.ClearFifosTimesOut : Prop :=
  ∀ (s : State) (tx rx : Bool), AtStart s → DefaultLayout s → BusReliable s →
    ∃ (s1 : State) (w : Bool) (c : Nat) (inp : Inputs),
      exec (.clearFifos tx rx) s = .next s1 ∧
      execFor (.clearFifos tx rx) (s.params.clearPollLimit + 9) s1 =
        .next { s with
          ctx := { s.ctx with clearTimeouts := s.ctx.clearTimeouts + 1#32, result := .ok }
          pr := { s.pr with cs := { s.pr.cs with txerr := false, rxerr := false } }
          pipe := { s.pipe with
            syncW := w
            syncCnt := c
            clrTx := if tx = true ∧ s.pipe.clrTx = .none then .zero else s.pipe.clrTx
            clrRx := if rx = true ∧ s.pipe.clrRx = .none then .zero else s.pipe.clrRx }
          ctrl := ctrlPast s.ctrl 0
          inputs := inp }

/-- R250, R251, R371, R182, R462: CLEAR_FIFOS from idle pipelines, with two PCM clocks after its SYNC toggle: the named FIFOs are empty when
the poll sees the echo, no timeout is counted, and the enables end as they were. With an echo in flight, one clock from its end: where no write
comes before the toggle, which is with mask 0, nothing restarts it, one PCM clock ends the poll, and clears begun just before are still pending,
the FIFOs as they were, when the command returns (R462); else those writes carry SYNC back and restart it (R182), and two clocks empty the
named FIFOs before the poll ends (R251 item 2). That R182 and R251 and not R462's example hold for a mask that names a FIFO is log 28's. -/
def Obligations.ClearFifosEcho : Prop :=
  (∀ (s : State) (tx rx : Bool), AtStart s → DefaultLayout s → BusReliable s → s.params.clearPollLimit ≠ 0 →
      s.pipe.syncW = s.pipe.syncR → s.pipe.clrTx = .none → s.pipe.clrRx = .none →
      ∃ (s1 u : State) (inp : Inputs),
        exec (.clearFifos tx rx) s = .next s1 ∧ execFor (.clearFifos tx rx) 7 s1 = .next u ∧ u.fifo = s.fifo ∧
        u.pr.cs.txon = (s.pr.cs.txon && !tx) ∧ u.pr.cs.rxon = (s.pr.cs.rxon && !rx) ∧
        execFor (.clearFifos tx rx) 3 (pcmClock (pcmClock u)) =
          .next { s with
            ctx := { s.ctx with result := .ok }
            pr := { s.pr with cs := { s.pr.cs with txerr := false, rxerr := false } }
            fifo := ⟨if tx then [] else s.fifo.tx, if rx then [] else s.fifo.rx⟩
            pipe := { s.pipe with syncW := !s.pipe.syncR, syncR := !s.pipe.syncR, syncCnt := 2 }
            ctrl := ctrlPast s.ctrl 0
            inputs := inp }) ∧
    ∀ (s : State) (tx rx : Bool), AtStart s → DefaultLayout s → BusReliable s → s.params.clearPollLimit ≠ 0 →
      s.pipe.syncW ≠ s.pipe.syncR → s.pipe.syncCnt = 1 → s.pipe.clrTx ≠ .one → s.pipe.clrRx ≠ .one →
      let clearsTx := tx = true ∨ s.pipe.clrTx = .zero
      let clearsRx := rx = true ∨ s.pipe.clrRx = .zero
      ∃ (s1 u : State) (inp : Inputs),
        exec (.clearFifos tx rx) s = .next s1 ∧ execFor (.clearFifos tx rx) 7 s1 = .next u ∧ u.fifo = s.fifo ∧
        if tx = false ∧ rx = false ∧ s.params.updateAlwaysWrites = false then
          u.pipe = { s.pipe with clrTx := if clearsTx then .zero else .none, clrRx := if clearsRx then .zero else .none } ∧
          execFor (.clearFifos tx rx) 3 (pcmClock u) =
            .next { s with
              ctx := { s.ctx with result := .ok }
              pr := { s.pr with cs := { s.pr.cs with txerr := false, rxerr := false } }
              pipe := { s.pipe with
                syncR := s.pipe.syncW
                syncCnt := 2
                clrTx := if clearsTx then .one else .none
                clrRx := if clearsRx then .one else .none }
              ctrl := ctrlPast s.ctrl 0
              inputs := inp }
        else
          u.pipe = { s.pipe with
            syncCnt := 0
            clrTx := if clearsTx then .zero else .none
            clrRx := if clearsRx then .zero else .none } ∧
          execFor (.clearFifos tx rx) 3 (pcmClock (pcmClock u)) =
            .next { s with
              ctx := { s.ctx with result := .ok }
              pr := { s.pr with cs := { s.pr.cs with txerr := false, rxerr := false } }
              fifo := ⟨if clearsTx then [] else s.fifo.tx, if clearsRx then [] else s.fifo.rx⟩
              pipe := { s.pipe with syncR := s.pipe.syncW, syncCnt := 2, clrTx := .none, clrRx := .none }
              ctrl := ctrlPast s.ctrl 0
              inputs := inp }

/-- R253, R415: PRIME_TX_FIFO pushes its zeros one a micro-operation; the push into a full FIFO faults and the earlier ones stay. -/
def Obligations.PrimeTxFifo : Prop :=
  ∀ (s : State) (n : BitVec 16), AtStart s → BusReliable s → FifoOpen s →
    (s.fifo.tx.length + n.toNat ≤ s.params.fifoDepth →
      ∃ s1, exec (.primeTxFifo n) s = .next s1 ∧
        execFor (.primeTxFifo n) (n.toNat - 1) s1 =
          .next { s with
            fifo := { s.fifo with tx := s.fifo.tx ++ List.replicate n.toNat 0#32 }
            ctx := { s.ctx with result := .ok }
            ctrl := ctrlPast s.ctrl 0 }) ∧
    (s.fifo.tx.length ≤ s.params.fifoDepth → s.params.fifoDepth < s.fifo.tx.length + n.toNat →
      ∃ u, execFor (.primeTxFifo n) (s.params.fifoDepth - s.fifo.tx.length) s = .next u ∧
        u.fifo.tx = s.fifo.tx ++ List.replicate (s.params.fifoDepth - s.fifo.tx.length) 0#32 ∧
        exec (.primeTxFifo n) u = .fault (.txOverflow (.ctrl u.ctrl.k u.ctrl.m) 0#32))

/-- R254, R256, R258: SYNC_FIFOS on waiting words: it pops up to the first zero pair, pushes a zero for each pop, counts and logs them. -/
def Obligations.SyncFindsZeroPair : Prop :=
  ∀ (s : State) (tx rx : Bool) (pre rest : List RxEntry) (e f : RxEntry), AtStart s → DefaultLayout s → BusReliable s →
    FifoOpen s → s.fifo.rx = pre ++ e :: f :: rest → e.word = 0#32 → f.word = 0#32 →
    noZeroPair (pre.map RxEntry.word ++ [0#32]) = true →
    let k := pre.length + 2
    k < 2 ^ 32 → s.fifo.tx.length + k ≤ s.params.fifoDepth → (∀ n, s.params.syncPollLimit = some n → k ≤ n) →
    let same : Prop := s.params.updateAlwaysWrites = false ∧ s.pr.cs.txon = tx ∧ s.pr.cs.rxon = rx
    ∃ (s1 t : State) (inp : Inputs),
      exec (.syncFifos tx rx) s = .next s1 ∧ execFor (.syncFifos tx rx) (3 * k + 1) s1 = .next t ∧
      (same → t.pr.cs = s.pr.cs ∧ t.pipe = s.pipe) ∧
      (¬same →
        t.pr.cs = { s.pr.cs with txon := tx, rxon := rx, txerr := false, rxerr := false } ∧ t.pipe = echoBack s.pipe) ∧
      t = { s with
        ctx := { s.ctx with sync := ⟨BitVec.ofNat 32 k, 0#32, true, BitVec.ofNat 32 k⟩, result := .ok }
        pr := { s.pr with cs := t.pr.cs }
        pipe := t.pipe
        fifo := ⟨s.fifo.tx ++ List.replicate k 0#32, rest⟩
        traces := { s.traces with discardLog := pre.map RxEntry.word ++ [0#32, 0#32] }
        ctrl := ctrlPast s.ctrl 0
        inputs := inp }

/-- R258, R254: SYNC_FIFOS on an empty RX FIFO makes `P_SYNC_POLL_LIMIT` status reads and no FIFO access, and returns E_SYNC_TIMEOUT. -/
def Obligations.SyncTimesOut : Prop :=
  ∀ (s : State) (tx rx : Bool) (n : Nat), AtStart s → DefaultLayout s → BusReliable s → s.fifo.rx = [] →
    s.params.syncPollLimit = some n → 0 < n → n < 2 ^ 32 →
    let same : Prop := s.params.updateAlwaysWrites = false ∧ s.pr.cs.txon = tx ∧ s.pr.cs.rxon = rx
    ∃ (s1 t : State) (inp : Inputs),
      exec (.syncFifos tx rx) s = .next s1 ∧ execFor (.syncFifos tx rx) (n + 1) s1 = .next t ∧
      (same → t.pr.cs = s.pr.cs ∧ t.pipe = s.pipe) ∧
      (¬same →
        t.pr.cs = { s.pr.cs with txon := tx, rxon := rx, txerr := false, rxerr := false } ∧ t.pipe = echoBack s.pipe) ∧
      t = { s with
        ctx := { s.ctx with sync := ⟨0#32, 0#32, false, BitVec.ofNat 32 n⟩, result := .syncTimeout }
        pr := { s.pr with cs := t.pr.cs }
        pipe := t.pipe
        traces := { s.traces with discardLog := [] }
        ctrl := ctrlPast s.ctrl 0
        inputs := inp }

/-! ## DMA controller and callback (43_dma.md) -/

/-- R291 to R293, R290: DMA_PREPARE with both calls answered ok. -/
def Obligations.DmaPrepare : Prop :=
  ∀ (s : State) (d : Dir) (as : List Bool), AtStart s → DefaultLayout s → (s.chan d).phase = .idle → s.ctx.geomValid = true →
    s.inputs.answers = true :: true :: as →
    let cfg : SlaveCfg := ⟨s.params.busBase + 4#32, 4, s.params.maxBurst, d⟩
    let desc : Desc :=
      ⟨match d with | .rx => s.ctx.geom.rxBase | .tx => s.ctx.geom.txBase, s.ctx.geom.bufLen, s.ctx.geom.periodLen,
        d == s.params.callbackDir⟩
    ∃ s1 t, exec (.dmaPrepare d) s = .next s1 ∧ exec (.dmaPrepare d) s1 = .next t ∧
      t.chan d = ⟨.prepared, some cfg, some desc, 0#32, 0, false⟩ ∧
      (∀ e, e ≠ d → t.chan e = s.chan e) ∧
      t = { s with
        dmaRx := t.dmaRx
        dmaTx := t.dmaTx
        ctx := { s.ctx with result := .ok }
        ctrl := ctrlPast s.ctrl 0
        traces := { s.traces with events := s.traces.events ++ [.slaveConfig d cfg true, .prepCyclic d desc true] }
        inputs := { s.inputs with answers := as } }

/-- R291, R333, R339, R295: a failed preparation returns its error; a failed playback one tears the capture channel down first, waiting for it to
quiesce, and returns its own error whether or not that termination is accepted. -/
def Obligations.DmaPrepareFails : Prop :=
  (∀ (s : State) (d : Dir) (as : List Bool), AtStart s → DefaultLayout s → (s.chan d).phase = .idle → s.ctx.geomValid = true →
      d = .rx ∨ s.dmaRx.phase = .idle →
      let cfg : SlaveCfg := ⟨s.params.busBase + 4#32, 4, s.params.maxBurst, d⟩
      let desc : Desc := ⟨bufferBase s.ctx.geom d, s.ctx.geom.bufLen, s.ctx.geom.periodLen, d == s.params.callbackDir⟩
      (s.inputs.answers = false :: as →
        exec (.dmaPrepare d) s =
          .next { s with
            ctx := { s.ctx with result := .config }
            ctrl := ctrlPast s.ctrl 0
            traces := { s.traces with events := s.traces.events ++ [.slaveConfig d cfg false] }
            inputs := { s.inputs with answers := as } }) ∧
      (s.inputs.answers = true :: false :: as →
        ∃ s1 t, exec (.dmaPrepare d) s = .next s1 ∧ exec (.dmaPrepare d) s1 = .next t ∧
          t.chan d = { s.chan d with slave := some cfg } ∧ (∀ e, e ≠ d → t.chan e = s.chan e) ∧
          t = { s with
            dmaRx := t.dmaRx
            dmaTx := t.dmaTx
            ctx := { s.ctx with result := .descriptor }
            ctrl := ctrlPast s.ctrl 0
            traces := { s.traces with events := s.traces.events ++ [.slaveConfig d cfg true, .prepCyclic d desc false] }
            inputs := { s.inputs with answers := as } })) ∧
    (∀ (s : State) (second c : Bool) (as : List Bool), AtStart s → DefaultLayout s → s.dmaTx.phase = .idle →
      s.ctx.geomValid = true → s.dmaRx.phase ≠ .idle →
      s.inputs.answers = (if second then [true, false] else [false]) ++ c :: as →
      let cfg : SlaveCfg := ⟨s.params.busBase + 4#32, 4, s.params.maxBurst, .tx⟩
      let desc : Desc := ⟨s.ctx.geom.txBase, s.ctx.geom.bufLen, s.ctx.geom.periodLen, .tx == s.params.callbackDir⟩
      let failed : List Event := if second then [.slaveConfig .tx cfg true, .prepCyclic .tx desc false] else [.slaveConfig .tx cfg false]
      ∃ s1 u, exec (.dmaPrepare .tx) s = .next s1 ∧ execFor (.dmaPrepare .tx) (if second then 2 else 1) s1 = .next u ∧
        (c = false →
          u = { s with
            dmaTx := if second then { s.dmaTx with slave := some cfg } else s.dmaTx
            ctx := { s.ctx with result := if second then .descriptor else .config }
            ctrl := ctrlPast s.ctrl 0
            traces := { s.traces with events := s.traces.events ++ failed ++ [.terminateAsync .rx false] }
            inputs := { s.inputs with answers := as } }) ∧
        (c = true →
          u.dmaRx = { s.dmaRx with phase := if s.dmaRx.phase = .stopped then .stopped else .stopping, pending := 0 } ∧
            (s.dmaRx.phase ≠ .stopped → exec (.dmaPrepare .tx) u = .next u) ∧
            exec (.dmaPrepare .tx) (quiesceWaited u) =
              .next { s with
                dmaRx := { s.dmaRx with phase := .idle, desc := none, pos := 0#32, pending := 0 }
                dmaTx := if second then { s.dmaTx with slave := some cfg } else s.dmaTx
                ctx := { s.ctx with result := if second then .descriptor else .config }
                ctrl := ctrlPast s.ctrl 0
                traces := { s.traces with
                  events := s.traces.events ++ failed ++ [.terminateAsync .rx true, .synchronize .rx] }
                inputs := { s.inputs with answers := as } })) ∧
    ∀ (s : State) (pf cc : Word) (as : List Bool), AtStart s → s.ctx.state = .unconfigured → s.ctx.initDone = true →
      geometryOk pf cc s.ctx.region.size = true → s.dmaRx.phase = .idle → s.inputs.answers = true :: false :: as →
      ∃ s1 t, exec (.buffersSetup pf cc) s = .next s1 ∧ exec (.buffersSetup pf cc) s1 = .next t ∧
        t.ctx.result = .descriptor ∧ t.ctx.state = .unconfigured ∧ t.ctrl = ctrlPast s.ctrl 2 ∧ t.dmaTx = s.dmaTx ∧ t.pr = s.pr ∧
        ∃ cfg desc, t.traces.events = s.traces.events ++ [.slaveConfig .rx cfg true, .prepCyclic .rx desc false]

/-- R294, R298: DMA_SUBMIT submits RX then TX, then issues RX then TX; a refused submission returns E_SUBMIT and issues neither. -/
def Obligations.DmaSubmit : Prop :=
  ∀ (s : State) (as : List Bool), AtStart s → s.dmaRx.phase = .prepared → s.dmaTx.phase = .prepared →
    (s.inputs.answers = true :: true :: as →
      ∃ s1, exec .dmaSubmit s = .next s1 ∧
        execFor .dmaSubmit 3 s1 =
          .next { s with
            dmaRx := { s.dmaRx with phase := .running }
            dmaTx := { s.dmaTx with phase := .running }
            ctx := { s.ctx with result := .ok }
            ctrl := ctrlPast s.ctrl 0
            traces := { s.traces with
              events := s.traces.events ++ [.submit .rx true, .submit .tx true, .issuePending .rx, .issuePending .tx] }
            inputs := { s.inputs with answers := as } }) ∧
    (s.inputs.answers = false :: as →
      exec .dmaSubmit s =
        .next { s with
          ctx := { s.ctx with result := .submit }
          ctrl := ctrlPast s.ctrl 0
          traces := { s.traces with events := s.traces.events ++ [.submit .rx false] }
          inputs := { s.inputs with answers := as } }) ∧
    (s.inputs.answers = true :: false :: as →
      ∃ s1, exec .dmaSubmit s = .next s1 ∧
        exec .dmaSubmit s1 =
          .next { s with
            dmaRx := { s.dmaRx with phase := .submitted }
            ctx := { s.ctx with result := .submit }
            ctrl := ctrlPast s.ctrl 0
            traces := { s.traces with events := s.traces.events ++ [.submit .rx true, .submit .tx false] }
            inputs := { s.inputs with answers := as } })

/-- R290, R295, R297, R417: TEARDOWN inside any CTRL command: an accepted request stops the channel and is waited for, a refused one
changes nothing and is not; the wait holds until the channel is STOPPED or IDLE. -/
def Obligations.Teardown : Prop :=
  ∀ (s : State) (i : Instr) (d : Dir) (mi : Micro) (rest : List Micro), cmdAgent i = .ctrl → s.ctrl.m ≠ 0 →
    (∀ as, s.ctrl.todo = .terminate d :: mi :: rest → s.inputs.answers = true :: as →
      ∃ t, exec i s = .next t ∧ t.ctrl = ctrlOn s.ctrl (.synchronize d :: mi :: rest) ∧ (t.chan d).pending = 0 ∧
        ((s.chan d).phase ∈ [.prepared, .submitted, .running] → (t.chan d).phase = .stopping) ∧
        ((s.chan d).phase ∈ [.idle, .stopping, .stopped] → (t.chan d).phase = (s.chan d).phase) ∧
        (∀ e, e ≠ d → t.chan e = s.chan e) ∧ t.traces.events = s.traces.events ++ [.terminateAsync d true] ∧ t.ctx = s.ctx) ∧
    (∀ as, s.inputs.answers = false :: as →
      let first : Code := if s.ctrl.first = .ok then .terminate else s.ctrl.first
      let refused : State := { s with
        traces := { s.traces with events := s.traces.events ++ [.terminateAsync d false] }
        inputs := { s.inputs with answers := as } }
      (∀ e r, s.ctrl.todo = .terminate d :: .terminate e :: r →
        exec i s = .next { refused with ctrl := { ctrlOn s.ctrl (.terminate e :: r) with first := first } }) ∧
      (∀ c r, s.ctrl.todo = .terminate d :: .ret c :: r →
        exec i s = .next { refused with ctx := { s.ctx with result := c }, ctrl := ctrlPast s.ctrl (operandWords i) }) ∧
      (∀ r, s.ctrl.todo = .terminate d :: .retFirst :: r →
        exec i s = .next { refused with ctx := { s.ctx with result := first }, ctrl := ctrlPast s.ctrl (operandWords i) }) ∧
      ∀ x r, s.ctrl.todo = .terminate d :: .setCoord x :: .retFirst :: r →
        exec i s =
          .next { refused with ctx := { s.ctx with state := x, result := first }, ctrl := ctrlPast s.ctrl (operandWords i) }) ∧
    (s.ctrl.todo = .synchronize d :: mi :: rest → (s.chan d).phase ∉ [.stopped, .idle] → exec i s = .next s) ∧
    ((s.chan d).phase ∈ [.stopped, .idle] →
      let idle : Channel := { s.chan d with phase := .idle, desc := none, pos := 0#32, pending := 0 }
      let waited : State := { s with
        dmaRx := if d = .rx then idle else s.dmaRx
        dmaTx := if d = .tx then idle else s.dmaTx
        traces := { s.traces with events := s.traces.events ++ [.synchronize d] } }
      (∀ e r, s.ctrl.todo = .synchronize d :: .terminate e :: r →
        exec i s = .next { waited with ctrl := ctrlOn s.ctrl (.terminate e :: r) }) ∧
      (∀ c r, s.ctrl.todo = .synchronize d :: .ret c :: r →
        exec i s = .next { waited with ctx := { s.ctx with result := c }, ctrl := ctrlPast s.ctrl (operandWords i) }) ∧
      (∀ r, s.ctrl.todo = .synchronize d :: .retFirst :: r →
        exec i s = .next { waited with ctx := { s.ctx with result := s.ctrl.first }, ctrl := ctrlPast s.ctrl (operandWords i) }) ∧
      ∀ x r, s.ctrl.todo = .synchronize d :: .setCoord x :: .retFirst :: r →
        exec i s =
          .next { waited with
            ctx := { s.ctx with state := x, result := s.ctrl.first }
            ctrl := ctrlPast s.ctrl (operandWords i) })

/-- R296, R297, R295: DMA_TERMINATE: TX, then RX, both attempted, each accepted one waited for until it quiesces; the first failure is the
result. -/
def Obligations.DmaTerminate : Prop :=
  ∀ (s : State) (as : List Bool), AtStart s →
    (s.dmaTx.phase = .idle → s.dmaRx.phase = .idle → s.inputs.answers = true :: true :: as →
      ∃ s1 t, exec .dmaTerminate s = .next s1 ∧ execFor .dmaTerminate 3 s1 = .next t ∧
        t = { s with
          dmaRx := { s.dmaRx with desc := none, pos := 0#32, pending := 0 }
          dmaTx := { s.dmaTx with desc := none, pos := 0#32, pending := 0 }
          ctx := { s.ctx with result := .ok }
          ctrl := ctrlPast s.ctrl 0
          traces := { s.traces with
            events := s.traces.events ++
              [.terminateAsync .tx true, .synchronize .tx, .terminateAsync .rx true, .synchronize .rx] }
          inputs := { s.inputs with answers := as } }) ∧
    (s.inputs.answers = false :: false :: as →
      ∃ s1, exec .dmaTerminate s = .next s1 ∧
        exec .dmaTerminate s1 =
          .next { s with
            ctx := { s.ctx with result := .terminate }
            ctrl := ctrlPast s.ctrl 0
            traces := { s.traces with events := s.traces.events ++ [.terminateAsync .tx false, .terminateAsync .rx false] }
            inputs := { s.inputs with answers := as } }) ∧
    (s.dmaTx.phase = .running → s.inputs.answers = true :: as →
      ∃ s1, exec .dmaTerminate s = .next s1 ∧ s1.dmaTx = { s.dmaTx with phase := .stopping, pending := 0 } ∧
        exec .dmaTerminate s1 = .next s1 ∧
        ∃ u, exec .dmaTerminate (quiesceStep .tx s1) = .next u ∧
          u.dmaTx = { s.dmaTx with phase := .idle, desc := none, pos := 0#32, pending := 0 } ∧ u.dmaRx = s.dmaRx) ∧
    ∀ a b, s.inputs.answers = a :: b :: as →
      ∃ s1, exec .dmaTerminate s = .next s1 ∧
        execQuiesced .dmaTerminate (1 + a.toNat + b.toNat) (quiesceWaited s1) =
          .next { s with
            dmaRx := if b then { s.dmaRx with phase := .idle, desc := none, pos := 0#32, pending := 0 } else s.dmaRx
            dmaTx := if a then { s.dmaTx with phase := .idle, desc := none, pos := 0#32, pending := 0 } else s.dmaTx
            ctx := { s.ctx with result := if a && b then .ok else .terminate }
            ctrl := ctrlPast s.ctrl 0
            traces := { s.traces with
              events := s.traces.events ++ [.terminateAsync .tx a] ++ (if a then [.synchronize .tx] else []) ++
                [.terminateAsync .rx b] ++ (if b then [.synchronize .rx] else []) }
            inputs := { s.inputs with answers := as } }

/-- R320, R323: PERIOD_CALLBACK takes one completion, counts it, flips the index, raises the notification, counts and clears errors. -/
def Obligations.PeriodCallback : Prop :=
  ∀ s : State, 0 < (s.chan s.params.callbackDir).pending →
    exec .periodCallback s =
      .next { s with
        dmaRx := { s.dmaRx with
          pending := if s.params.callbackDir = .rx then s.dmaRx.pending - 1 else s.dmaRx.pending
          err := false }
        dmaTx := { s.dmaTx with
          pending := if s.params.callbackDir = .tx then s.dmaTx.pending - 1 else s.dmaTx.pending
          err := false }
        ctx := { s.ctx with
          irqCount := s.ctx.irqCount + 1#32
          bufIdx := !s.ctx.bufIdx
          notify := true
          dmaErrors := s.ctx.dmaErrors + (if s.dmaRx.err then 1#32 else 0#32) + (if s.dmaTx.err then 1#32 else 0#32) } }

/-! ## Coordinator and consumer (44_coordinator.md) -/

/-- R331, R336, R210, R416 item 4: INIT's results: the allocation taken, its failure, an unknown profile, the fault of a profile other than the
resolved one, and the refusal of a bad answer. -/
def Obligations.Init : Prop :=
  ∀ (s : State) (p : BitVec 8), AtStart s → s.ctx.state = .unconfigured → s.ctx.initDone = false →
    (3 ≤ p.toNat ∧ s.params.unknownProfile = .error →
      exec (.init p) s = .next { s with ctx := { s.ctx with result := .unknownProfile }, ctrl := ctrlPast s.ctrl 0 }) ∧
    (p.toNat < 3 ∨ s.params.unknownProfile = .fallbackDefault →
      let bundle := profileBundle s.params (if p.toNat < 3 then p else 0#8)
      let log := fun a => { s.traces with events := s.traces.events ++ [.alloc s.params.maxBufferBytes a] }
      (s.ctx.resolved = true → s.ctx.profile ≠ bundle → exec (.init p) s = .fault (.illegalState (.ctrl s.ctrl.k 0) .resolve)) ∧
      (s.ctx.resolved = false ∨ s.ctx.profile = bundle →
      (∀ as, s.inputs.allocs = .fail :: as →
        exec (.init p) s =
          .next { s with
            ctx := { s.ctx with profile := bundle, resolved := true, result := .alloc }
            ctrl := ctrlPast s.ctrl 0
            traces := log .fail
            inputs := { s.inputs with allocs := as } }) ∧
      (∀ virt phys size as, s.inputs.allocs = .ok virt phys size :: as →
        (size = s.params.maxBufferBytes ∧ phys.toNat % 4 = 0 ∧ phys.toNat + size.toNat ≤ 2 ^ 32 →
          exec (.init p) s =
            .next { s with
              ctx := { s.ctx with
                profile := bundle
                resolved := true
                region := ⟨virt, phys, size⟩
                initDone := true
                result := .ok }
              ctrl := ctrlPast s.ctrl 0
              traces := log (.ok virt phys size)
              inputs := { s.inputs with allocs := as } }) ∧
        (¬(size = s.params.maxBufferBytes ∧ phys.toNat % 4 = 0 ∧ phys.toNat + size.toNat ≤ 2 ^ 32) →
          exec (.init p) s = .refused (.allocAnswer virt phys size)))))

/-- R337, R103, R332: the geometry check in exact arithmetic, its error result, and the geometry registers of an accepted pair. -/
def Obligations.BuffersGeometry : Prop :=
  ∀ (s : State) (pf cc : Word), AtStart s → s.ctx.state = .unconfigured → s.ctx.initDone = true →
    (pf = 0#32 ∨ cc = 0#32 ∨ s.ctx.region.size.toNat < 2 * (2 * (pf.toNat * cc.toNat * 4)) + 8 →
      exec (.buffersSetup pf cc) s = .next { s with ctx := { s.ctx with result := .geometry }, ctrl := ctrlPast s.ctrl 2 }) ∧
    (pf ≠ 0#32 ∧ cc ≠ 0#32 ∧ 2 * (2 * (pf.toNat * cc.toNat * 4)) + 8 ≤ s.ctx.region.size.toNat → s.dmaRx.phase = .idle →
      ∃ t, exec (.buffersSetup pf cc) s = .next t ∧ t.ctx.geomValid = true ∧ t.ctx.geom.periodFrames = pf ∧
        t.ctx.geom.channelCount = cc ∧ t.ctx.geom.periodLen.toNat = pf.toNat * cc.toNat * 4 ∧
        t.ctx.geom.bufLen.toNat = 2 * t.ctx.geom.periodLen.toNat ∧ t.ctx.geom.rxBase = s.ctx.region.phys ∧
        t.ctx.geom.txBase = t.ctx.geom.rxBase + t.ctx.geom.bufLen ∧ t.ctx.geom.cvBase = t.ctx.geom.txBase + t.ctx.geom.bufLen ∧
        (s.ctx.region.phys.toNat + s.ctx.region.size.toNat ≤ 2 ^ 32 →
          t.ctx.geom.cvBase.toNat = s.ctx.region.phys.toNat + 2 * t.ctx.geom.bufLen.toNat ∧
            t.ctx.geom.cvBase.toNat + 8 ≤ s.ctx.region.phys.toNat + s.ctx.region.size.toNat))

/-- R332, R335, R217 to R222, R103, R298, R333, R457: BUFFERS_SETUP with no other agent stepping: with every answer ok the whole bring-up, in
whose last state no DMA beat is enabled (its clears are then pending: log 29); with a refused submission the unwinding, TX then RX, and E_SUBMIT. -/
def Obligations.BuffersSetupCompletes : Prop :=
  ∀ (s : State) (pf cc : Word) (id : BitVec 8), AtStart s → DefaultLayout s → BusReliable s → launchRefusal s.params = none →
    s.ctx.state = .unconfigured → s.ctx.initDone = true → s.ctx.resolved = true → id.toNat < 3 →
    s.ctx.profile = profileBundle s.params id → geometryOk pf cc s.ctx.region.size = true →
    s.dmaRx.phase = .idle → s.dmaTx.phase = .idle → s.fifo.rx = [] → ReservedZero s →
    s.fifo.tx.length + s.params.dreqTx + cc.toNat ≤ s.params.fifoDepth →
    let base := s.ctx.region.phys
    let half := pf * cc * 4#32
    let cfg := fun d => SlaveCfg.mk (s.params.busBase + 4#32) 4 s.params.maxBurst d
    let rxDesc : Desc := ⟨base, 2#32 * half, half, s.params.callbackDir == .rx⟩
    let txDesc : Desc := ⟨base + 2#32 * half, 2#32 * half, half, s.params.callbackDir == .tx⟩
    let pos := if id = 0#8 then s.params.posDefault else if id = 1#8 then s.params.posShifted else s.params.posBcp
    let fmt : Word := 0xC008C008#32 ||| BitVec.ofNat 32 (pos.1 * 2 ^ 20) ||| BitVec.ofNat 32 (pos.2 * 2 ^ 4)
    let prepared : List Event :=
      [.slaveConfig .rx (cfg .rx) true, .prepCyclic .rx rxDesc true, .slaveConfig .tx (cfg .tx) true, .prepCyclic .tx txDesc true] ++
        (if id = 2#8 then [.clkSetRate s.ctx.profile.bclkRate true, .clkEnable true] else [])
    (AnswersOkFor 8 s →
      ∃ (n : Nat) (s1 t : State) (inp : Inputs) (w : Bool) (c : Nat),
        exec (.buffersSetup pf cc) s = .next s1 ∧ execFor (.buffersSetup pf cc) n s1 = .next t ∧
        t = { s with
          ctx := { s.ctx with
            state := .configured
            configured := true
            clkRate := if id = 2#8 then s.ctx.profile.bclkRate else s.ctx.clkRate
            geom := ⟨pf, cc, half, 2#32 * half, base, base + 2#32 * half, base + 2#32 * half + 2#32 * half⟩
            geomValid := true
            clearTimeouts := s.ctx.clearTimeouts + 1#32
            result := .ok }
          pr := { s.pr with
            cs := { s.pr.cs with
              en := true
              stby := true
              dmaen := true
              txthr := BitVec.ofNat 2 s.params.txThr
              rxthr := BitVec.ofNat 2 s.params.rxThr
              txerr := false
              rxerr := false }
            mode := if id = 2#8 then 0x0010FC20#32 else 0x00B0FC20#32
            rxc := fmt
            txc := fmt
            dreq := BitVec.ofNat 32
              (s.params.panicTx * 2 ^ 24 + s.params.panicRx * 2 ^ 16 + s.params.dreqTx * 2 ^ 8 + s.params.dreqRx)
            inten := 0xC#32 }
          fifo := { s.fifo with tx := s.fifo.tx ++ List.replicate (s.params.dreqTx + cc.toNat) 0#32 }
          dmaRx := ⟨.running, some (cfg .rx), some rxDesc, 0#32, 0, false⟩
          dmaTx := ⟨.running, some (cfg .tx), some txDesc, 0#32, 0, false⟩
          clkEnabled := if id = 2#8 then true else s.clkEnabled
          pipe := { s.pipe with
            syncW := w
            syncCnt := c
            clrTx := if s.pipe.clrTx = .none then .zero else s.pipe.clrTx
            clrRx := if s.pipe.clrRx = .none then .zero else s.pipe.clrRx }
          ctrl := ctrlPast s.ctrl 2
          traces := { s.traces with
            events := s.traces.events ++ prepared ++ [.submit .rx true, .submit .tx true, .issuePending .rx, .issuePending .tx] }
          inputs := inp } ∧
        beatEnabled .rx t = false ∧ beatEnabled .tx t = false) ∧
    ∀ (second a b : Bool) (as : List Bool),
      s.inputs.answers =
        List.replicate (if id = 2#8 then 6 else 4) true ++ (if second then [true, false] else [false]) ++ a :: b :: as →
      ∃ (n : Nat) (s1 u t : State),
        exec (.buffersSetup pf cc) s = .next s1 ∧ execFor (.buffersSetup pf cc) n s1 = .next u ∧
        u.dmaRx = ⟨if second then .submitted else .prepared, some (cfg .rx), some rxDesc, 0#32, 0, false⟩ ∧
        u.dmaTx = ⟨.prepared, some (cfg .tx), some txDesc, 0#32, 0, false⟩ ∧
        u.traces.events =
          s.traces.events ++ prepared ++ (if second then [.submit .rx true, .submit .tx false] else [.submit .rx false]) ∧
        u.ctx.state = .unconfigured ∧
        execQuiesced (.buffersSetup pf cc) (2 + a.toNat + b.toNat) u = .next t ∧
        t = { u with
          dmaRx := if b then { u.dmaRx with phase := .idle, desc := none } else u.dmaRx
          dmaTx := if a then { u.dmaTx with phase := .idle, desc := none } else u.dmaTx
          ctx := { u.ctx with result := .submit }
          ctrl := ctrlPast s.ctrl 2
          traces := { u.traces with
            events := u.traces.events ++ [.terminateAsync .tx a] ++ (if a then [.synchronize .tx] else []) ++
              [.terminateAsync .rx b] ++ (if b then [.synchronize .rx] else []) }
          inputs := { u.inputs with answers := as } }

/-- R340, R17: START for a profile without the synchronizer: one read and one write of CS_A, no FIFO_A access. -/
def Obligations.StartStraight : Prop :=
  ∀ s : State, AtStart s → DefaultLayout s → BusReliable s → s.ctx.state = .configured → s.ctx.profile.profileId ≠ 2#8 →
    let same : Prop := s.params.updateAlwaysWrites = false ∧ s.pr.cs.txon = true ∧ s.pr.cs.rxon = true
    ∃ (s1 t : State), exec .start s = .next s1 ∧ s1.ctx.state = .synchronizing ∧ exec .start s1 = .next t ∧
      (same → t.pr.cs = s.pr.cs ∧ t.pipe = s.pipe) ∧
      (¬same →
        t.pr.cs = { s.pr.cs with txon := true, rxon := true, txerr := false, rxerr := false } ∧ t.pipe = echoBack s.pipe) ∧
      t = { s with
        ctx := { s.ctx with state := .streaming, result := .ok }
        pr := { s.pr with cs := t.pr.cs }
        pipe := t.pipe
        ctrl := ctrlPast s.ctrl 0
        inputs := (drawOf s.inputs).2 }

/-- R340, R254, R258, R259: START for bit-clock-provider runs the synchronizer: STREAMING after a zero pair, CONFIGURED with the enables
cleared and E_SYNC_TIMEOUT after the cap. -/
def Obligations.StartSynchronizes : Prop :=
  ∀ s : State, AtStart s → DefaultLayout s → BusReliable s → s.ctx.state = .configured → s.ctx.profile.profileId = 2#8 →
    (∀ (pre rest : List RxEntry) (e f : RxEntry), FifoOpen s → s.fifo.rx = pre ++ e :: f :: rest → e.word = 0#32 →
      f.word = 0#32 → noZeroPair (pre.map RxEntry.word ++ [0#32]) = true → pre.length + 2 < 2 ^ 32 →
      s.fifo.tx.length + (pre.length + 2) ≤ s.params.fifoDepth →
      (∀ n, s.params.syncPollLimit = some n → pre.length + 2 ≤ n) →
      ∃ n s1 t, exec .start s = .next s1 ∧ s1.ctx.state = .synchronizing ∧ execFor .start n s1 = .next t ∧
        t.ctx = { s.ctx with
          state := .streaming
          sync := ⟨BitVec.ofNat 32 (pre.length + 2), 0#32, true, BitVec.ofNat 32 (pre.length + 2)⟩
          result := .ok } ∧
        t.pr.cs.txon = true ∧ t.pr.cs.rxon = true ∧ t.fifo = ⟨s.fifo.tx ++ List.replicate (pre.length + 2) 0#32, rest⟩ ∧
        t.ctrl = ctrlPast s.ctrl 0 ∧ t.mem = s.mem) ∧
    (∀ n, s.fifo.rx = [] → s.params.syncPollLimit = some n → 0 < n → n < 2 ^ 32 →
      ∃ k s1 t, exec .start s = .next s1 ∧ execFor .start k s1 = .next t ∧
        t.ctx = { s.ctx with sync := ⟨0#32, 0#32, false, BitVec.ofNat 32 n⟩, result := .syncTimeout } ∧
        t.pr.cs.txon = false ∧ t.pr.cs.rxon = false ∧ t.fifo = s.fifo ∧ t.ctrl = ctrlPast s.ctrl 0)

/-- R341, R343: Stop clears RXON and TXON in STREAMING and returns to CONFIGURED; in every other state it makes no access. -/
def Obligations.Stop : Prop :=
  ∀ s : State, AtStart s →
    (s.ctx.state ≠ .streaming →
      exec .stop s = .next { s with ctx := { s.ctx with result := .ok }, ctrl := ctrlPast s.ctrl 0 }) ∧
    (s.ctx.state = .streaming → DefaultLayout s → BusReliable s →
      let same : Prop := s.params.updateAlwaysWrites = false ∧ s.pr.cs.txon = false ∧ s.pr.cs.rxon = false
      ∃ (s1 t : State), exec .stop s = .next s1 ∧ exec .stop s1 = .next t ∧
        (same → t.pr.cs = s.pr.cs ∧ t.pipe = s.pipe) ∧
        (¬same →
          t.pr.cs = { s.pr.cs with txon := false, rxon := false, txerr := false, rxerr := false } ∧ t.pipe = echoBack s.pipe) ∧
        t = { s with
          ctx := { s.ctx with state := .configured, result := .ok }
          pr := { s.pr with cs := t.pr.cs }
          pipe := t.pipe
          ctrl := ctrlPast s.ctrl 0
          inputs := (drawOf s.inputs).2 })

/-- R342, R296, R344, R466: EXIT terminates TX then RX, waits for each accepted one to quiesce, and ends STOPPED whatever the terminations
answer and whatever the channels were doing, touching no register. -/
def Obligations.Exit : Prop :=
  ∀ (s : State) (a b : Bool) (as : List Bool), AtStart s → s.ctx.state ≠ .stopped → s.inputs.answers = a :: b :: as →
    ∃ s1 t, exec .exit s = .next s1 ∧
      (a = true → (s.dmaTx.phase = .prepared ∨ s.dmaTx.phase = .submitted ∨ s.dmaTx.phase = .running) →
        s1.dmaTx = { s.dmaTx with phase := .stopping, pending := 0 } ∧ exec .exit s1 = .next s1) ∧
      execQuiesced .exit (1 + a.toNat + b.toNat) (quiesceWaited s1) = .next t ∧
      t = { s with
        dmaRx := if b then { s.dmaRx with phase := .idle, desc := none, pos := 0#32, pending := 0 } else s.dmaRx
        dmaTx := if a then { s.dmaTx with phase := .idle, desc := none, pos := 0#32, pending := 0 } else s.dmaTx
        ctx := { s.ctx with state := .stopped, result := if a && b then .ok else .terminate }
        ctrl := ctrlPast s.ctrl 0
        traces := { s.traces with
          events := s.traces.events ++ [.terminateAsync .tx a] ++ (if a then [.synchronize .tx] else []) ++
            [.terminateAsync .rx b] ++ (if b then [.synchronize .rx] else []) }
        inputs := { s.inputs with answers := as } } ∧
      (a = true → b = true → completionPending t = false)

/-- R350, R352, R48: the consumer's commands: the wait holds until the notification is set and clears it; the index is copied. -/
def Obligations.ConsumerCommands : Prop :=
  ∀ s : State,
    (s.ctx.notify = true →
      exec .waitCompletion s =
        .next { s with ctx := { s.ctx with notify := false }, cons := { s.cons with k := s.cons.k + 1 } }) ∧
    (s.ctx.notify = false → exec .waitCompletion s = .next s) ∧
    exec .readBufIdx s =
      .next { s with ctx := { s.ctx with consIdx := some s.ctx.bufIdx }, cons := { s.cons with k := s.cons.k + 1 } }

/-- R353, R100, R102, R108, R109: the consumer's data steps: the two faults, a read that changes nothing, and a write that stores the low
bytes of its value little-endian and leaves every other byte. That an aligned access whose first byte is in the region and whose last is not
faults F_MEM_RANGE is the model's reading (log 13). -/
def Obligations.ConsumerData : Prop :=
  ∀ (s : State) (a : Word) (n : AccessSize), MemCanonical s →
    let len := match n with | .byte => 1 | .half => 2 | .word => 4
    let last := s.ctx.region.phys.toNat + s.ctx.region.size.toNat
    let inside := s.ctx.region.phys.toNat ≤ a.toNat ∧ a.toNat < last
    (¬inside ∨ (a.toNat % len = 0 ∧ last < a.toNat + len) →
      agentStep (.consData (.read a n)) s = .fault (.memRange (.cons s.cons.k) a) ∧
        ∀ v, agentStep (.consData (.write a n v)) s = .fault (.memRange (.cons s.cons.k) a)) ∧
    (inside → a.toNat % len ≠ 0 →
      agentStep (.consData (.read a n)) s = .fault (.misaligned (.cons s.cons.k) a) ∧
        ∀ v, agentStep (.consData (.write a n v)) s = .fault (.misaligned (.cons s.cons.k) a)) ∧
    (inside → a.toNat % len = 0 → a.toNat + len ≤ last →
      agentStep (.consData (.read a n)) s = .next s ∧
        ∀ v, ∃ t, agentStep (.consData (.write a n v)) s = .next t ∧ t = { s with mem := t.mem } ∧
          (∀ i, i < len → memByte t.mem (a.toNat + i) = v.extractLsb' (8 * i) 8) ∧
          (∀ x, x < a.toNat ∨ a.toNat + len ≤ x → memByte t.mem x = memByte s.mem x) ∧
          (n = .word → memReadSized t.mem a.toNat .word = v))

/-! ## Autonomous steps (45_autonomous_steps.md) -/

/-- R371, R74 to R76: PCM_CLOCK advances the clear pipelines, then the SYNC echo, while the bit clock runs. -/
def Obligations.PcmClock : Prop :=
  ∀ s : State, DefaultLayout s →
    let running := s.pr.mode.getLsbD 28 = false ∧
      (if s.pr.mode.getLsbD 23 = false then s.clkEnabled = true else s.params.codecClock = true)
    (¬running → agentStep .pcmClock s = .next s) ∧
    (running →
      agentStep .pcmClock s =
        .next { s with
          fifo := ⟨if s.pipe.clrTx = .one then [] else s.fifo.tx, if s.pipe.clrRx = .one then [] else s.fifo.rx⟩
          pipe := { s.pipe with
            clrTx := if s.pipe.clrTx = .zero then .one else .none
            clrRx := if s.pipe.clrRx = .zero then .one else .none
            syncCnt := if s.pipe.syncCnt < 2 then s.pipe.syncCnt + 1 else s.pipe.syncCnt
            syncR := if s.pipe.syncCnt = 1 then s.pipe.syncW else s.pipe.syncR } })

/-- R372, R373, R374, R74: SLOT moves one word each enabled way, sets the error flags on under- and overflow, and turns the phase. -/
def Obligations.Slot : Prop :=
  ∀ s : State, DefaultLayout s →
    let enabled := s.pr.mode.getLsbD 28 = false ∧
      (if s.pr.mode.getLsbD 23 = false then s.clkEnabled = true else s.params.codecClock = true) ∧
      (s.pr.mode.getLsbD 21 = false ∨ s.params.codecClock = true) ∧ s.pr.cs.en = true ∧ s.pr.cs.stby = true
    let empty := s.pr.cs.txon = true ∧ s.fifo.tx = []
    let full := s.pr.cs.rxon = true ∧ s.params.fifoDepth ≤ s.fifo.rx.length
    let inp1 := if empty then (drawOf s.inputs).2 else s.inputs
    (¬enabled → agentStep .slot s = .next s) ∧
    (enabled → ¬LayoutBits s.pr → agentStep .slot s = .fault (.frameUnmodelled .pcm s.pr.mode s.pr.rxc s.pr.txc)) ∧
    (enabled → LayoutBits s.pr →
      agentStep .slot s =
        .next { s with
          fifo := ⟨if s.pr.cs.txon = true then s.fifo.tx.drop 1 else s.fifo.tx,
            if s.pr.cs.rxon = true ∧ s.fifo.rx.length < s.params.fifoDepth then
              s.fifo.rx ++ [⟨(rxWordOf inp1).1, s.pipe.slotPhase⟩] else s.fifo.rx⟩
          pr := { s.pr with
            cs := { s.pr.cs with
              txerr := if empty then true else s.pr.cs.txerr
              rxerr := if full then true else s.pr.cs.rxerr }
            intstc := s.pr.intstc ||| (if empty then 0x4#32 else 0#32) ||| (if full then 0x8#32 else 0#32) }
          traces := { s.traces with
            txLine := s.traces.txLine ++
              (if s.pr.cs.txon = true then [(s.pipe.slotPhase, s.fifo.tx.headD (drawOf s.inputs).1)] else []) }
          pipe := { s.pipe with slotPhase := if s.pipe.slotPhase = .ch1 then .ch2 else .ch1 }
          inputs := if s.pr.cs.rxon = true then (rxWordOf inp1).2 else inp1 })

/-- R380, R382, R100, R322: a DMA_RX beat, for a descriptor in the region: enabled on the request level, it stores the FIFO's head and
advances; with the frame of memory. -/
def Obligations.BeatRx : Prop :=
  ∀ (s : State) (x : Desc), DefaultLayout s → MemCanonical s → RegionSound s → s.dmaRx.desc = some x →
    (¬(s.dmaRx.phase = .running ∧ s.pr.cs.dmaen = true ∧ s.pr.cs.en = true ∧ s.pr.cs.stby = true ∧
        s.pr.dreq.toNat % 128 < s.fifo.rx.length) →
      agentStep (.beat .rx) s = .next s) ∧
    (s.dmaRx.phase = .running → s.pr.cs.dmaen = true → s.pr.cs.en = true → s.pr.cs.stby = true →
      ∀ e rest, s.fifo.rx = e :: rest → s.pr.dreq.toNat % 128 < s.fifo.rx.length →
      let a := x.base.toNat + s.dmaRx.pos.toNat
      ∃ t, agentStep (.beat .rx) s = .next t ∧
        (∀ i, i < 4 → memByte t.mem (a + i) = e.word.extractLsb' (8 * i) 8) ∧
        (∀ y, y < a ∨ a + 4 ≤ y → memByte t.mem y = memByte s.mem y) ∧
        t = { s with
          mem := t.mem
          fifo := { s.fifo with rx := rest }
          dmaRx := { s.dmaRx with
            pos := if s.dmaRx.pos + 4#32 = x.bufLen then 0#32 else s.dmaRx.pos + 4#32
            pending :=
              if (s.dmaRx.pos + 4#32).toNat % x.periodLen.toNat = 0 ∧ x.cb = true then
                (if s.params.delivery = .exact then s.dmaRx.pending + 1 else 1)
              else s.dmaRx.pending } })

/-- R381, R382, R100: a DMA_TX beat, for a descriptor in the region: it appends the word its four bytes make and advances. -/
def Obligations.BeatTx : Prop :=
  ∀ (s : State) (x : Desc), DefaultLayout s → RegionSound s → s.dmaTx.desc = some x →
    let enabled := s.dmaTx.phase = .running ∧ s.pr.cs.dmaen = true ∧ s.pr.cs.en = true ∧ s.pr.cs.stby = true ∧
      s.fifo.tx.length < s.pr.dreq.toNat / 2 ^ 8 % 128 ∧ s.fifo.tx.length < s.params.fifoDepth
    (¬enabled → agentStep (.beat .tx) s = .next s) ∧
    (enabled →
      let a := x.base.toNat + s.dmaTx.pos.toNat
      ∃ w : Word, (∀ i, i < 4 → w.extractLsb' (8 * i) 8 = memByte s.mem (a + i)) ∧
        agentStep (.beat .tx) s =
          .next { s with
            fifo := { s.fifo with tx := s.fifo.tx ++ [w] }
            dmaTx := { s.dmaTx with
              pos := if s.dmaTx.pos + 4#32 = x.bufLen then 0#32 else s.dmaTx.pos + 4#32
              pending :=
                if (s.dmaTx.pos + 4#32).toNat % x.periodLen.toNat = 0 ∧ x.cb = true then
                  (if s.params.delivery = .exact then s.dmaTx.pending + 1 else 1)
                else s.dmaTx.pending } })

/-- R383, R395, R41, R46: QUIESCE, the environment's steps, and the host's observations. -/
def Obligations.QuiesceEnvHost : Prop :=
  ∀ s : State, DefaultLayout s →
    ((s.dmaRx.phase = .stopping → agentStep (.quiesce .rx) s = .next { s with dmaRx := { s.dmaRx with phase := .stopped } }) ∧
      (s.dmaRx.phase ≠ .stopping → agentStep (.quiesce .rx) s = .next s) ∧
      (s.dmaTx.phase = .stopping → agentStep (.quiesce .tx) s = .next { s with dmaTx := { s.dmaTx with phase := .stopped } }) ∧
      (s.dmaTx.phase ≠ .stopping → agentStep (.quiesce .tx) s = .next s)) ∧
    ((s.dmaRx.phase = .running → agentStep (.envError .rx) s = .next { s with dmaRx := { s.dmaRx with err := true } }) ∧
      (s.dmaRx.phase ≠ .running → agentStep (.envError .rx) s = .next s) ∧
      (s.dmaTx.phase = .running → agentStep (.envError .tx) s = .next { s with dmaTx := { s.dmaTx with err := true } }) ∧
      (s.dmaTx.phase ≠ .running → agentStep (.envError .tx) s = .next s)) ∧
    ((s.fifo.tx.length ≤ levelOf s.params.txwLevel s.pr.cs.txthr →
        agentStep .envTxw s = .next { s with pr := { s.pr with intstc := s.pr.intstc ||| 0x1#32 } }) ∧
      (levelOf s.params.txwLevel s.pr.cs.txthr < s.fifo.tx.length → agentStep .envTxw s = .next s) ∧
      (levelOf s.params.rxrLevel s.pr.cs.rxthr ≤ s.fifo.rx.length →
        agentStep .envRxr s = .next { s with pr := { s.pr with intstc := s.pr.intstc ||| 0x2#32 } }) ∧
      (s.fifo.rx.length < levelOf s.params.rxrLevel s.pr.cs.rxthr → agentStep .envRxr s = .next s)) ∧
    (∀ r, (r = .lastRead ∧ s.ctx.lastRead = none) ∨ (r = .consIdx ∧ s.ctx.consIdx = none) →
      agentStep (.hostRead r) s = .fault (.unwritten .host r)) ∧
    (∀ r, ¬((r = .lastRead ∧ s.ctx.lastRead = none) ∨ (r = .consIdx ∧ s.ctx.consIdx = none)) →
      agentStep (.hostRead r) s = .next s)

/-! ## Whole-machine rules -/

/-- R12, R15, R120, R420, R422, R423: what a micro-operation of any command leaves alone: memory, parameters, streams, and every other
agent's registers. -/
def Obligations.CommandFrame : Prop :=
  ∀ (i : Instr) (s t : State), exec i s = .next t →
    (∀ a, memByte t.mem a = memByte s.mem a) ∧ t.mem = s.mem ∧ t.params = s.params ∧ t.ctrl.stream = s.ctrl.stream ∧
    t.cons.stream = s.cons.stream ∧ t.faults = s.faults ∧ t.refused = s.refused ∧ t.inputs.moves = s.inputs.moves ∧
    t.inputs.rxWords = s.inputs.rxWords ∧ t.traces.txLine = s.traces.txLine ∧ t.pipe.slotPhase = s.pipe.slotPhase ∧
    t.pipe.syncR = s.pipe.syncR ∧ t.ctx.relayEnabled = s.ctx.relayEnabled ∧
    (i ≠ .periodCallback →
      t.ctx.irqCount = s.ctx.irqCount ∧ t.ctx.bufIdx = s.ctx.bufIdx ∧ t.ctx.dmaErrors = s.ctx.dmaErrors ∧
        (i ≠ .waitCompletion → t.ctx.notify = s.ctx.notify)) ∧
    (cmdAgent i ≠ .ctrl →
      t.ctrl = s.ctrl ∧ t.pr = s.pr ∧ t.fifo = s.fifo ∧ t.pipe = s.pipe ∧ t.clkEnabled = s.clkEnabled ∧ t.traces = s.traces ∧
        t.inputs = s.inputs ∧ t.ctx.state = s.ctx.state ∧ t.ctx.result = s.ctx.result ∧ t.ctx.region = s.ctx.region ∧
        t.ctx.geom = s.ctx.geom ∧ t.ctx.profile = s.ctx.profile ∧ t.ctx.lastRead = s.ctx.lastRead) ∧
    (cmdAgent i ≠ .cons → t.cons = s.cons ∧ t.ctx.consIdx = s.ctx.consIdx)

/-- R194, R31, R41: the peripheral's registers, `ctx.state`, `ctx.result` and `pc_ctrl` change only in CTRL's steps, but for the error
flags and INTSTC_A, which the other agents only set. -/
def Obligations.OnlyCtrlWritesRegisters : Prop :=
  ∀ s t : State, step s = .next t → (moveOf s.inputs).1 ≠ .ctrl →
    t.ctrl = s.ctrl ∧ t.ctx.state = s.ctx.state ∧ t.ctx.result = s.ctx.result ∧ t.pr.mode = s.pr.mode ∧ t.pr.rxc = s.pr.rxc ∧
    t.pr.txc = s.pr.txc ∧ t.pr.dreq = s.pr.dreq ∧ t.pr.inten = s.pr.inten ∧
    t.pr.cs = { s.pr.cs with txerr := t.pr.cs.txerr, rxerr := t.pr.cs.rxerr } ∧
    (s.pr.cs.txerr = true → t.pr.cs.txerr = true) ∧ (s.pr.cs.rxerr = true → t.pr.cs.rxerr = true) ∧
    t.pr.intstc &&& s.pr.intstc = s.pr.intstc

/-- R116, R38, R39: `ctx.buf_idx` and `ctx.irq_count` are written only by PERIOD_CALLBACK. -/
def Obligations.OnlyCallbackWritesIndex : Prop :=
  ∀ s t : State, step s = .next t → (t.ctx.bufIdx ≠ s.ctx.bufIdx ∨ t.ctx.irqCount ≠ s.ctx.irqCount) →
    (moveOf s.inputs).1 = .irq ∧ 0 < (s.chan s.params.callbackDir).pending ∧ t.ctx.bufIdx = !s.ctx.bufIdx ∧
      t.ctx.irqCount = s.ctx.irqCount + 1#32 ∧ t.ctx.notify = true

/-- The memory keeps its canonical form, and no step but a DMA_RX beat and a consumer's write changes it (R100, R101, R111, R120). -/
def Obligations.MemoryKept : Prop :=
  ∀ s t : State, step s = .next t →
    (MemCanonical s → MemCanonical t) ∧
    (t.mem = s.mem ∨ (moveOf s.inputs).1 = .beat .rx ∨ ∃ a n v, (moveOf s.inputs).1 = .consData (.write a n v))

/-- R61, R59, R189, R75, R70, R72, R291, R322: the FIFOs stay within their depth, reserved bits stay 0 and no refused mode is stored, the SYNC
counter stays legal, and a channel has a descriptor unless IDLE, completions only of a callback descriptor, at most one under coalescing. -/
def Obligations.PeripheralKept : Prop :=
  ∀ s t : State, step s = .next t →
    (FifosBounded s → FifosBounded t) ∧ (ReservedZero s → ReservedZero t) ∧ (SyncSettled s → SyncSettled t) ∧
      (ChannelsSound s → ChannelsSound t)

/-- R71: every step changes a channel's phase only as the table allows, from states whose pending work prepares only IDLE channels, which
every step keeps. -/
def Obligations.PhaseTransitions : Prop :=
  ∀ s t : State, step s = .next t → PrepareSafe s →
    PrepareSafe t ∧ ∀ d, (t.chan d).phase = (s.chan d).phase ∨ PhaseStep (s.chan d).phase (t.chan d).phase

/-- R330: every step changes `ctx.state` only as the table allows, so STOPPED is never left, from states that hold SYNCHRONIZING only while a
command runs, which every step keeps. -/
def Obligations.CoordinatorTransitions : Prop :=
  ∀ s t : State, step s = .next t → CoordSafe s →
    CoordSafe t ∧ (t.ctx.state = s.ctx.state ∨ CoordStep s.ctx.state t.ctx.state) ∧
      (s.ctx.state = .stopped → t.ctx.state = .stopped)

/-- R33, R213: the stored profile is one of the table's, and once resolved it never changes. -/
def Obligations.ProfileImmutable : Prop :=
  ∀ s t : State, step s = .next t →
    (ProfileSound s → ProfileSound t) ∧
    (s.ctx.resolved = true → t.ctx.resolved = true ∧ t.ctx.profile = s.ctx.profile) ∧ (s.ctx.initDone = true → t.ctx.initDone = true)

/-- R102, R103, R336, R337: geometry and descriptors stay inside the region INIT allocated, so a DMA beat never leaves it: only the consumer
can raise F_MEM_RANGE. -/
def Obligations.DmaStaysInRegion : Prop :=
  ∀ s : State, RegionSound s →
    (∀ t, step s = .next t → RegionSound t) ∧
    (s.faults = [] → ∀ site a, step s = .fault (.memRange site a) → ∃ k, site = .cons k)

/-- R384: between CTRL's steps, the active index names the half the callback channel is transferring, up to the completions still pending. -/
def Obligations.IndexTracking : Prop :=
  ∀ s t : State, step s = .next t → (moveOf s.inputs).1 ≠ .ctrl → IndexTracks s →
    IndexTracks t ∧
      ∀ x, (t.chan t.params.callbackDir).desc = some x → (t.chan t.params.callbackDir).pending = 0 →
        (if t.ctx.bufIdx then 1 else 0) = (t.chan t.params.callbackDir).pos.toNat / x.periodLen.toNat
end

