-- ==== Sys2Proof/Laws/Decode.lean ====
section
/-! SUPPORT. The fields of a command word, built and taken apart, and what the decoder's answer says of its agent (R140 to R148). -/

namespace Sys2Proof

/-! ## Fields of a word put together (R140) -/

theorem commandWord_getLsbD (opc : BitVec 8) (imm : BitVec 16) (i : Nat) :
    (commandWord opc imm).getLsbD i =
      if i < 16 then imm.getLsbD i else if i < 24 then false else opc.getLsbD (i - 24) := by
  simp only [commandWord, BitVec.getLsbD_append]
  by_cases h1 : i < 16
  · simp [h1]
  · by_cases h2 : i < 24
    · simp [h1, h2, show i - 16 < 8 by omega]
    · simp [h1, h2, show ¬ i - 16 < 8 by omega, show i - 16 - 8 = i - 24 by omega]

theorem opcField_commandWord (opc : BitVec 8) (imm : BitVec 16) : opcField (commandWord opc imm) = opc := by
  apply BitVec.eq_of_getLsbD_eq
  intro i hi
  simp only [opcField, BitVec.getLsbD_extractLsb', commandWord_getLsbD]
  simp [hi, show ¬ 24 + i < 16 by omega]

theorem rsvField_commandWord (opc : BitVec 8) (imm : BitVec 16) : rsvField (commandWord opc imm) = 0#8 := by
  apply BitVec.eq_of_getLsbD_eq
  intro i hi
  simp only [rsvField, BitVec.getLsbD_extractLsb', commandWord_getLsbD]
  simp [show ¬ 16 + i < 16 by omega, show 16 + i < 24 by omega]

theorem immField_commandWord (opc : BitVec 8) (imm : BitVec 16) : immField (commandWord opc imm) = imm := by
  apply BitVec.eq_of_getLsbD_eq
  intro i hi
  simp only [immField, BitVec.getLsbD_extractLsb', commandWord_getLsbD]
  simp [hi]

theorem immHigh_commandWord (opc : BitVec 8) (imm : BitVec 16) : immHigh (commandWord opc imm) = imm.extractLsb' 8 8 := by
  apply BitVec.eq_of_getLsbD_eq
  intro i hi
  simp only [immHigh, BitVec.getLsbD_extractLsb', commandWord_getLsbD]
  simp [hi, show 8 + i < 16 by omega]

theorem immLow_commandWord (opc : BitVec 8) (imm : BitVec 16) : immLow (commandWord opc imm) = imm.extractLsb' 0 8 := by
  apply BitVec.eq_of_getLsbD_eq
  intro i hi
  simp only [immLow, BitVec.getLsbD_extractLsb', commandWord_getLsbD]
  simp [hi, show i < 16 by omega]

/-- A byte in IMM leaves IMM[15:8] at 0 (R142, R143). -/
theorem setWidth_high (b : BitVec 8) : (b.setWidth 16).extractLsb' 8 8 = 0#8 := by
  apply BitVec.eq_of_getLsbD_eq; intro i hi; simp [hi]

/-- A byte in IMM is read back from IMM[7:0] (R142, R143). -/
theorem setWidth_low (b : BitVec 8) : (b.setWidth 16).extractLsb' 0 8 = b := by
  apply BitVec.eq_of_getLsbD_eq; intro i hi; simp [hi]; omega

/-- The opcode map read both ways (R147). -/
theorem opcodeOf_opcodeByte (op : Opcode) : opcodeOf (opcodeByte op) = some op := by cases op <;> rfl

theorem opcodeByte_of_opcodeOf {b : BitVec 8} {op : Opcode} (h : opcodeOf b = some op) : b = opcodeByte op := by
  unfold opcodeOf at h
  split at h <;> cases h <;> (apply BitVec.eq_of_toNat_eq; simpa [opcodeByte] using ‹b.toNat = _›)

/-! ## Fields of any word, as numbers (R140, R163) -/

theorem opcField_toNat (w : Word) : (opcField w).toNat = w.toNat / 2 ^ 24 := by
  simp [opcField, BitVec.extractLsb'_toNat, Nat.shiftRight_eq_div_pow]; have := w.isLt; omega

theorem rsvField_toNat (w : Word) : (rsvField w).toNat = w.toNat / 2 ^ 16 % 256 := by
  simp [rsvField, BitVec.extractLsb'_toNat, Nat.shiftRight_eq_div_pow]

theorem immField_toNat (w : Word) : (immField w).toNat = w.toNat % 2 ^ 16 := by
  simp [immField, BitVec.extractLsb'_toNat]

theorem immHigh_toNat (w : Word) : (immHigh w).toNat = w.toNat / 2 ^ 8 % 256 := by
  simp [immHigh, BitVec.extractLsb'_toNat, Nat.shiftRight_eq_div_pow]

theorem immLow_toNat (w : Word) : (immLow w).toNat = w.toNat % 256 := by
  simp [immLow, BitVec.extractLsb'_toNat]

/-! ## What was decoded -/

theorem opcodeFor_assemble (op : Opcode) (w x y : Word) : opcodeFor (assemble op w x y) = op := by
  cases op <;> simp only [assemble] <;> (try split) <;> rfl

/-- What is decoded is the assembled command of a checked word (R148). -/
theorem decode_ok {ws : List Word} {i : Instr} (h : decode ws = .ok i) :
    ∃ w rest op, ws = w :: rest ∧ checkWord w = .ok op ∧ opWords op ≤ rest.length ∧
      i = assemble op w (rest.getD 0 0#32) (rest.getD 1 0#32) := by
  cases ws with
  | nil => cases h
  | cons w rest =>
    simp only [decode, takeOperands] at h
    split at h
    · cases h
    · next op hop =>
      split at h
      · cases h
      · cases h; exact ⟨w, rest, op, rfl, hop, by omega, rfl⟩

/-- What an agent decodes is a command of its own (R148). -/
theorem decodeFor_agent {a : CmdAgent} {ws : List Word} {i : Instr} (h : decodeFor a ws = .ok i) :
    cmdAgent i = a ∧ decode ws = .ok i := by
  cases ws with
  | nil => cases h
  | cons w rest =>
    simp only [decodeFor] at h
    split at h
    · cases h
    · next op hop =>
      split at h
      · cases h
      · next ha =>
        refine ⟨?_, by simp only [decode, hop, h]⟩
        obtain ⟨w', rest', op', hw, hop', -, rfl⟩ := decode_ok (ws := w :: rest) (i := i) (by simp only [decode, hop, h])
        injection hw with h1 h2
        subst h1 h2
        rw [hop] at hop'
        cases hop'
        rw [cmdAgent, opcodeFor_assemble]
        exact not_not.mp ha

end Sys2Proof
end

