-- ==== Sys2Proof/Laws/State.lean ====
section
/-! SUPPORT. What each update of the state leaves in each field. -/

namespace Sys2Proof.Machine

/-! `setCtx` -/

@[simp] theorem State.setCtx_params (s : State) (c : Ctx) : (s.setCtx c).params = s.params := rfl
@[simp] theorem State.setCtx_ctx (s : State) (c : Ctx) : (s.setCtx c).ctx = c := rfl
@[simp] theorem State.setCtx_pr (s : State) (c : Ctx) : (s.setCtx c).pr = s.pr := rfl
@[simp] theorem State.setCtx_fifo (s : State) (c : Ctx) : (s.setCtx c).fifo = s.fifo := rfl
@[simp] theorem State.setCtx_dmaRx (s : State) (c : Ctx) : (s.setCtx c).dmaRx = s.dmaRx := rfl
@[simp] theorem State.setCtx_dmaTx (s : State) (c : Ctx) : (s.setCtx c).dmaTx = s.dmaTx := rfl
@[simp] theorem State.setCtx_clkEnabled (s : State) (c : Ctx) : (s.setCtx c).clkEnabled = s.clkEnabled := rfl
@[simp] theorem State.setCtx_mem (s : State) (c : Ctx) : (s.setCtx c).mem = s.mem := rfl
@[simp] theorem State.setCtx_pipe (s : State) (c : Ctx) : (s.setCtx c).pipe = s.pipe := rfl
@[simp] theorem State.setCtx_ctrl (s : State) (c : Ctx) : (s.setCtx c).ctrl = s.ctrl := rfl
@[simp] theorem State.setCtx_cons (s : State) (c : Ctx) : (s.setCtx c).cons = s.cons := rfl
@[simp] theorem State.setCtx_faults (s : State) (c : Ctx) : (s.setCtx c).faults = s.faults := rfl
@[simp] theorem State.setCtx_refused (s : State) (c : Ctx) : (s.setCtx c).refused = s.refused := rfl
@[simp] theorem State.setCtx_traces (s : State) (c : Ctx) : (s.setCtx c).traces = s.traces := rfl
@[simp] theorem State.setCtx_inputs (s : State) (c : Ctx) : (s.setCtx c).inputs = s.inputs := rfl

/-! `setPr` -/

@[simp] theorem State.setPr_params (s : State) (p : Peripheral) : (s.setPr p).params = s.params := rfl
@[simp] theorem State.setPr_ctx (s : State) (p : Peripheral) : (s.setPr p).ctx = s.ctx := rfl
@[simp] theorem State.setPr_pr (s : State) (p : Peripheral) : (s.setPr p).pr = p := rfl
@[simp] theorem State.setPr_fifo (s : State) (p : Peripheral) : (s.setPr p).fifo = s.fifo := rfl
@[simp] theorem State.setPr_dmaRx (s : State) (p : Peripheral) : (s.setPr p).dmaRx = s.dmaRx := rfl
@[simp] theorem State.setPr_dmaTx (s : State) (p : Peripheral) : (s.setPr p).dmaTx = s.dmaTx := rfl
@[simp] theorem State.setPr_clkEnabled (s : State) (p : Peripheral) : (s.setPr p).clkEnabled = s.clkEnabled := rfl
@[simp] theorem State.setPr_mem (s : State) (p : Peripheral) : (s.setPr p).mem = s.mem := rfl
@[simp] theorem State.setPr_pipe (s : State) (p : Peripheral) : (s.setPr p).pipe = s.pipe := rfl
@[simp] theorem State.setPr_ctrl (s : State) (p : Peripheral) : (s.setPr p).ctrl = s.ctrl := rfl
@[simp] theorem State.setPr_cons (s : State) (p : Peripheral) : (s.setPr p).cons = s.cons := rfl
@[simp] theorem State.setPr_faults (s : State) (p : Peripheral) : (s.setPr p).faults = s.faults := rfl
@[simp] theorem State.setPr_refused (s : State) (p : Peripheral) : (s.setPr p).refused = s.refused := rfl
@[simp] theorem State.setPr_traces (s : State) (p : Peripheral) : (s.setPr p).traces = s.traces := rfl
@[simp] theorem State.setPr_inputs (s : State) (p : Peripheral) : (s.setPr p).inputs = s.inputs := rfl

/-! `setFifo` -/

@[simp] theorem State.setFifo_params (s : State) (f : Fifos) : (s.setFifo f).params = s.params := rfl
@[simp] theorem State.setFifo_ctx (s : State) (f : Fifos) : (s.setFifo f).ctx = s.ctx := rfl
@[simp] theorem State.setFifo_pr (s : State) (f : Fifos) : (s.setFifo f).pr = s.pr := rfl
@[simp] theorem State.setFifo_fifo (s : State) (f : Fifos) : (s.setFifo f).fifo = f := rfl
@[simp] theorem State.setFifo_dmaRx (s : State) (f : Fifos) : (s.setFifo f).dmaRx = s.dmaRx := rfl
@[simp] theorem State.setFifo_dmaTx (s : State) (f : Fifos) : (s.setFifo f).dmaTx = s.dmaTx := rfl
@[simp] theorem State.setFifo_clkEnabled (s : State) (f : Fifos) : (s.setFifo f).clkEnabled = s.clkEnabled := rfl
@[simp] theorem State.setFifo_mem (s : State) (f : Fifos) : (s.setFifo f).mem = s.mem := rfl
@[simp] theorem State.setFifo_pipe (s : State) (f : Fifos) : (s.setFifo f).pipe = s.pipe := rfl
@[simp] theorem State.setFifo_ctrl (s : State) (f : Fifos) : (s.setFifo f).ctrl = s.ctrl := rfl
@[simp] theorem State.setFifo_cons (s : State) (f : Fifos) : (s.setFifo f).cons = s.cons := rfl
@[simp] theorem State.setFifo_faults (s : State) (f : Fifos) : (s.setFifo f).faults = s.faults := rfl
@[simp] theorem State.setFifo_refused (s : State) (f : Fifos) : (s.setFifo f).refused = s.refused := rfl
@[simp] theorem State.setFifo_traces (s : State) (f : Fifos) : (s.setFifo f).traces = s.traces := rfl
@[simp] theorem State.setFifo_inputs (s : State) (f : Fifos) : (s.setFifo f).inputs = s.inputs := rfl

/-! `setDmaRx` -/

@[simp] theorem State.setDmaRx_params (s : State) (c : Channel) : (s.setDmaRx c).params = s.params := rfl
@[simp] theorem State.setDmaRx_ctx (s : State) (c : Channel) : (s.setDmaRx c).ctx = s.ctx := rfl
@[simp] theorem State.setDmaRx_pr (s : State) (c : Channel) : (s.setDmaRx c).pr = s.pr := rfl
@[simp] theorem State.setDmaRx_fifo (s : State) (c : Channel) : (s.setDmaRx c).fifo = s.fifo := rfl
@[simp] theorem State.setDmaRx_dmaRx (s : State) (c : Channel) : (s.setDmaRx c).dmaRx = c := rfl
@[simp] theorem State.setDmaRx_dmaTx (s : State) (c : Channel) : (s.setDmaRx c).dmaTx = s.dmaTx := rfl
@[simp] theorem State.setDmaRx_clkEnabled (s : State) (c : Channel) : (s.setDmaRx c).clkEnabled = s.clkEnabled := rfl
@[simp] theorem State.setDmaRx_mem (s : State) (c : Channel) : (s.setDmaRx c).mem = s.mem := rfl
@[simp] theorem State.setDmaRx_pipe (s : State) (c : Channel) : (s.setDmaRx c).pipe = s.pipe := rfl
@[simp] theorem State.setDmaRx_ctrl (s : State) (c : Channel) : (s.setDmaRx c).ctrl = s.ctrl := rfl
@[simp] theorem State.setDmaRx_cons (s : State) (c : Channel) : (s.setDmaRx c).cons = s.cons := rfl
@[simp] theorem State.setDmaRx_faults (s : State) (c : Channel) : (s.setDmaRx c).faults = s.faults := rfl
@[simp] theorem State.setDmaRx_refused (s : State) (c : Channel) : (s.setDmaRx c).refused = s.refused := rfl
@[simp] theorem State.setDmaRx_traces (s : State) (c : Channel) : (s.setDmaRx c).traces = s.traces := rfl
@[simp] theorem State.setDmaRx_inputs (s : State) (c : Channel) : (s.setDmaRx c).inputs = s.inputs := rfl

/-! `setDmaTx` -/

@[simp] theorem State.setDmaTx_params (s : State) (c : Channel) : (s.setDmaTx c).params = s.params := rfl
@[simp] theorem State.setDmaTx_ctx (s : State) (c : Channel) : (s.setDmaTx c).ctx = s.ctx := rfl
@[simp] theorem State.setDmaTx_pr (s : State) (c : Channel) : (s.setDmaTx c).pr = s.pr := rfl
@[simp] theorem State.setDmaTx_fifo (s : State) (c : Channel) : (s.setDmaTx c).fifo = s.fifo := rfl
@[simp] theorem State.setDmaTx_dmaRx (s : State) (c : Channel) : (s.setDmaTx c).dmaRx = s.dmaRx := rfl
@[simp] theorem State.setDmaTx_dmaTx (s : State) (c : Channel) : (s.setDmaTx c).dmaTx = c := rfl
@[simp] theorem State.setDmaTx_clkEnabled (s : State) (c : Channel) : (s.setDmaTx c).clkEnabled = s.clkEnabled := rfl
@[simp] theorem State.setDmaTx_mem (s : State) (c : Channel) : (s.setDmaTx c).mem = s.mem := rfl
@[simp] theorem State.setDmaTx_pipe (s : State) (c : Channel) : (s.setDmaTx c).pipe = s.pipe := rfl
@[simp] theorem State.setDmaTx_ctrl (s : State) (c : Channel) : (s.setDmaTx c).ctrl = s.ctrl := rfl
@[simp] theorem State.setDmaTx_cons (s : State) (c : Channel) : (s.setDmaTx c).cons = s.cons := rfl
@[simp] theorem State.setDmaTx_faults (s : State) (c : Channel) : (s.setDmaTx c).faults = s.faults := rfl
@[simp] theorem State.setDmaTx_refused (s : State) (c : Channel) : (s.setDmaTx c).refused = s.refused := rfl
@[simp] theorem State.setDmaTx_traces (s : State) (c : Channel) : (s.setDmaTx c).traces = s.traces := rfl
@[simp] theorem State.setDmaTx_inputs (s : State) (c : Channel) : (s.setDmaTx c).inputs = s.inputs := rfl

/-! `setClk` -/

@[simp] theorem State.setClk_params (s : State) (b : Bool) : (s.setClk b).params = s.params := rfl
@[simp] theorem State.setClk_ctx (s : State) (b : Bool) : (s.setClk b).ctx = s.ctx := rfl
@[simp] theorem State.setClk_pr (s : State) (b : Bool) : (s.setClk b).pr = s.pr := rfl
@[simp] theorem State.setClk_fifo (s : State) (b : Bool) : (s.setClk b).fifo = s.fifo := rfl
@[simp] theorem State.setClk_dmaRx (s : State) (b : Bool) : (s.setClk b).dmaRx = s.dmaRx := rfl
@[simp] theorem State.setClk_dmaTx (s : State) (b : Bool) : (s.setClk b).dmaTx = s.dmaTx := rfl
@[simp] theorem State.setClk_clkEnabled (s : State) (b : Bool) : (s.setClk b).clkEnabled = b := rfl
@[simp] theorem State.setClk_mem (s : State) (b : Bool) : (s.setClk b).mem = s.mem := rfl
@[simp] theorem State.setClk_pipe (s : State) (b : Bool) : (s.setClk b).pipe = s.pipe := rfl
@[simp] theorem State.setClk_ctrl (s : State) (b : Bool) : (s.setClk b).ctrl = s.ctrl := rfl
@[simp] theorem State.setClk_cons (s : State) (b : Bool) : (s.setClk b).cons = s.cons := rfl
@[simp] theorem State.setClk_faults (s : State) (b : Bool) : (s.setClk b).faults = s.faults := rfl
@[simp] theorem State.setClk_refused (s : State) (b : Bool) : (s.setClk b).refused = s.refused := rfl
@[simp] theorem State.setClk_traces (s : State) (b : Bool) : (s.setClk b).traces = s.traces := rfl
@[simp] theorem State.setClk_inputs (s : State) (b : Bool) : (s.setClk b).inputs = s.inputs := rfl

/-! `setMem` -/

@[simp] theorem State.setMem_params (s : State) (m : Mem) : (s.setMem m).params = s.params := rfl
@[simp] theorem State.setMem_ctx (s : State) (m : Mem) : (s.setMem m).ctx = s.ctx := rfl
@[simp] theorem State.setMem_pr (s : State) (m : Mem) : (s.setMem m).pr = s.pr := rfl
@[simp] theorem State.setMem_fifo (s : State) (m : Mem) : (s.setMem m).fifo = s.fifo := rfl
@[simp] theorem State.setMem_dmaRx (s : State) (m : Mem) : (s.setMem m).dmaRx = s.dmaRx := rfl
@[simp] theorem State.setMem_dmaTx (s : State) (m : Mem) : (s.setMem m).dmaTx = s.dmaTx := rfl
@[simp] theorem State.setMem_clkEnabled (s : State) (m : Mem) : (s.setMem m).clkEnabled = s.clkEnabled := rfl
@[simp] theorem State.setMem_mem (s : State) (m : Mem) : (s.setMem m).mem = m := rfl
@[simp] theorem State.setMem_pipe (s : State) (m : Mem) : (s.setMem m).pipe = s.pipe := rfl
@[simp] theorem State.setMem_ctrl (s : State) (m : Mem) : (s.setMem m).ctrl = s.ctrl := rfl
@[simp] theorem State.setMem_cons (s : State) (m : Mem) : (s.setMem m).cons = s.cons := rfl
@[simp] theorem State.setMem_faults (s : State) (m : Mem) : (s.setMem m).faults = s.faults := rfl
@[simp] theorem State.setMem_refused (s : State) (m : Mem) : (s.setMem m).refused = s.refused := rfl
@[simp] theorem State.setMem_traces (s : State) (m : Mem) : (s.setMem m).traces = s.traces := rfl
@[simp] theorem State.setMem_inputs (s : State) (m : Mem) : (s.setMem m).inputs = s.inputs := rfl

/-! `setPipe` -/

@[simp] theorem State.setPipe_params (s : State) (p : Pipe) : (s.setPipe p).params = s.params := rfl
@[simp] theorem State.setPipe_ctx (s : State) (p : Pipe) : (s.setPipe p).ctx = s.ctx := rfl
@[simp] theorem State.setPipe_pr (s : State) (p : Pipe) : (s.setPipe p).pr = s.pr := rfl
@[simp] theorem State.setPipe_fifo (s : State) (p : Pipe) : (s.setPipe p).fifo = s.fifo := rfl
@[simp] theorem State.setPipe_dmaRx (s : State) (p : Pipe) : (s.setPipe p).dmaRx = s.dmaRx := rfl
@[simp] theorem State.setPipe_dmaTx (s : State) (p : Pipe) : (s.setPipe p).dmaTx = s.dmaTx := rfl
@[simp] theorem State.setPipe_clkEnabled (s : State) (p : Pipe) : (s.setPipe p).clkEnabled = s.clkEnabled := rfl
@[simp] theorem State.setPipe_mem (s : State) (p : Pipe) : (s.setPipe p).mem = s.mem := rfl
@[simp] theorem State.setPipe_pipe (s : State) (p : Pipe) : (s.setPipe p).pipe = p := rfl
@[simp] theorem State.setPipe_ctrl (s : State) (p : Pipe) : (s.setPipe p).ctrl = s.ctrl := rfl
@[simp] theorem State.setPipe_cons (s : State) (p : Pipe) : (s.setPipe p).cons = s.cons := rfl
@[simp] theorem State.setPipe_faults (s : State) (p : Pipe) : (s.setPipe p).faults = s.faults := rfl
@[simp] theorem State.setPipe_refused (s : State) (p : Pipe) : (s.setPipe p).refused = s.refused := rfl
@[simp] theorem State.setPipe_traces (s : State) (p : Pipe) : (s.setPipe p).traces = s.traces := rfl
@[simp] theorem State.setPipe_inputs (s : State) (p : Pipe) : (s.setPipe p).inputs = s.inputs := rfl

/-! `setCtrl` -/

@[simp] theorem State.setCtrl_params (s : State) (c : Ctrl) : (s.setCtrl c).params = s.params := rfl
@[simp] theorem State.setCtrl_ctx (s : State) (c : Ctrl) : (s.setCtrl c).ctx = s.ctx := rfl
@[simp] theorem State.setCtrl_pr (s : State) (c : Ctrl) : (s.setCtrl c).pr = s.pr := rfl
@[simp] theorem State.setCtrl_fifo (s : State) (c : Ctrl) : (s.setCtrl c).fifo = s.fifo := rfl
@[simp] theorem State.setCtrl_dmaRx (s : State) (c : Ctrl) : (s.setCtrl c).dmaRx = s.dmaRx := rfl
@[simp] theorem State.setCtrl_dmaTx (s : State) (c : Ctrl) : (s.setCtrl c).dmaTx = s.dmaTx := rfl
@[simp] theorem State.setCtrl_clkEnabled (s : State) (c : Ctrl) : (s.setCtrl c).clkEnabled = s.clkEnabled := rfl
@[simp] theorem State.setCtrl_mem (s : State) (c : Ctrl) : (s.setCtrl c).mem = s.mem := rfl
@[simp] theorem State.setCtrl_pipe (s : State) (c : Ctrl) : (s.setCtrl c).pipe = s.pipe := rfl
@[simp] theorem State.setCtrl_ctrl (s : State) (c : Ctrl) : (s.setCtrl c).ctrl = c := rfl
@[simp] theorem State.setCtrl_cons (s : State) (c : Ctrl) : (s.setCtrl c).cons = s.cons := rfl
@[simp] theorem State.setCtrl_faults (s : State) (c : Ctrl) : (s.setCtrl c).faults = s.faults := rfl
@[simp] theorem State.setCtrl_refused (s : State) (c : Ctrl) : (s.setCtrl c).refused = s.refused := rfl
@[simp] theorem State.setCtrl_traces (s : State) (c : Ctrl) : (s.setCtrl c).traces = s.traces := rfl
@[simp] theorem State.setCtrl_inputs (s : State) (c : Ctrl) : (s.setCtrl c).inputs = s.inputs := rfl

/-! `setCons` -/

@[simp] theorem State.setCons_params (s : State) (c : Cons) : (s.setCons c).params = s.params := rfl
@[simp] theorem State.setCons_ctx (s : State) (c : Cons) : (s.setCons c).ctx = s.ctx := rfl
@[simp] theorem State.setCons_pr (s : State) (c : Cons) : (s.setCons c).pr = s.pr := rfl
@[simp] theorem State.setCons_fifo (s : State) (c : Cons) : (s.setCons c).fifo = s.fifo := rfl
@[simp] theorem State.setCons_dmaRx (s : State) (c : Cons) : (s.setCons c).dmaRx = s.dmaRx := rfl
@[simp] theorem State.setCons_dmaTx (s : State) (c : Cons) : (s.setCons c).dmaTx = s.dmaTx := rfl
@[simp] theorem State.setCons_clkEnabled (s : State) (c : Cons) : (s.setCons c).clkEnabled = s.clkEnabled := rfl
@[simp] theorem State.setCons_mem (s : State) (c : Cons) : (s.setCons c).mem = s.mem := rfl
@[simp] theorem State.setCons_pipe (s : State) (c : Cons) : (s.setCons c).pipe = s.pipe := rfl
@[simp] theorem State.setCons_ctrl (s : State) (c : Cons) : (s.setCons c).ctrl = s.ctrl := rfl
@[simp] theorem State.setCons_cons (s : State) (c : Cons) : (s.setCons c).cons = c := rfl
@[simp] theorem State.setCons_faults (s : State) (c : Cons) : (s.setCons c).faults = s.faults := rfl
@[simp] theorem State.setCons_refused (s : State) (c : Cons) : (s.setCons c).refused = s.refused := rfl
@[simp] theorem State.setCons_traces (s : State) (c : Cons) : (s.setCons c).traces = s.traces := rfl
@[simp] theorem State.setCons_inputs (s : State) (c : Cons) : (s.setCons c).inputs = s.inputs := rfl

/-! `setTraces` -/

@[simp] theorem State.setTraces_params (s : State) (t : Traces) : (s.setTraces t).params = s.params := rfl
@[simp] theorem State.setTraces_ctx (s : State) (t : Traces) : (s.setTraces t).ctx = s.ctx := rfl
@[simp] theorem State.setTraces_pr (s : State) (t : Traces) : (s.setTraces t).pr = s.pr := rfl
@[simp] theorem State.setTraces_fifo (s : State) (t : Traces) : (s.setTraces t).fifo = s.fifo := rfl
@[simp] theorem State.setTraces_dmaRx (s : State) (t : Traces) : (s.setTraces t).dmaRx = s.dmaRx := rfl
@[simp] theorem State.setTraces_dmaTx (s : State) (t : Traces) : (s.setTraces t).dmaTx = s.dmaTx := rfl
@[simp] theorem State.setTraces_clkEnabled (s : State) (t : Traces) : (s.setTraces t).clkEnabled = s.clkEnabled := rfl
@[simp] theorem State.setTraces_mem (s : State) (t : Traces) : (s.setTraces t).mem = s.mem := rfl
@[simp] theorem State.setTraces_pipe (s : State) (t : Traces) : (s.setTraces t).pipe = s.pipe := rfl
@[simp] theorem State.setTraces_ctrl (s : State) (t : Traces) : (s.setTraces t).ctrl = s.ctrl := rfl
@[simp] theorem State.setTraces_cons (s : State) (t : Traces) : (s.setTraces t).cons = s.cons := rfl
@[simp] theorem State.setTraces_faults (s : State) (t : Traces) : (s.setTraces t).faults = s.faults := rfl
@[simp] theorem State.setTraces_refused (s : State) (t : Traces) : (s.setTraces t).refused = s.refused := rfl
@[simp] theorem State.setTraces_traces (s : State) (t : Traces) : (s.setTraces t).traces = t := rfl
@[simp] theorem State.setTraces_inputs (s : State) (t : Traces) : (s.setTraces t).inputs = s.inputs := rfl

/-! `setInputs` -/

@[simp] theorem State.setInputs_params (s : State) (i : Inputs) : (s.setInputs i).params = s.params := rfl
@[simp] theorem State.setInputs_ctx (s : State) (i : Inputs) : (s.setInputs i).ctx = s.ctx := rfl
@[simp] theorem State.setInputs_pr (s : State) (i : Inputs) : (s.setInputs i).pr = s.pr := rfl
@[simp] theorem State.setInputs_fifo (s : State) (i : Inputs) : (s.setInputs i).fifo = s.fifo := rfl
@[simp] theorem State.setInputs_dmaRx (s : State) (i : Inputs) : (s.setInputs i).dmaRx = s.dmaRx := rfl
@[simp] theorem State.setInputs_dmaTx (s : State) (i : Inputs) : (s.setInputs i).dmaTx = s.dmaTx := rfl
@[simp] theorem State.setInputs_clkEnabled (s : State) (i : Inputs) : (s.setInputs i).clkEnabled = s.clkEnabled := rfl
@[simp] theorem State.setInputs_mem (s : State) (i : Inputs) : (s.setInputs i).mem = s.mem := rfl
@[simp] theorem State.setInputs_pipe (s : State) (i : Inputs) : (s.setInputs i).pipe = s.pipe := rfl
@[simp] theorem State.setInputs_ctrl (s : State) (i : Inputs) : (s.setInputs i).ctrl = s.ctrl := rfl
@[simp] theorem State.setInputs_cons (s : State) (i : Inputs) : (s.setInputs i).cons = s.cons := rfl
@[simp] theorem State.setInputs_faults (s : State) (i : Inputs) : (s.setInputs i).faults = s.faults := rfl
@[simp] theorem State.setInputs_refused (s : State) (i : Inputs) : (s.setInputs i).refused = s.refused := rfl
@[simp] theorem State.setInputs_traces (s : State) (i : Inputs) : (s.setInputs i).traces = s.traces := rfl
@[simp] theorem State.setInputs_inputs (s : State) (i : Inputs) : (s.setInputs i).inputs = i := rfl

/-! `setChan` -/

@[simp] theorem State.setChan_params (s : State) (d : Dir) (c : Channel) : (s.setChan d c).params = s.params := by cases d <;> rfl
@[simp] theorem State.setChan_ctx (s : State) (d : Dir) (c : Channel) : (s.setChan d c).ctx = s.ctx := by cases d <;> rfl
@[simp] theorem State.setChan_pr (s : State) (d : Dir) (c : Channel) : (s.setChan d c).pr = s.pr := by cases d <;> rfl
@[simp] theorem State.setChan_fifo (s : State) (d : Dir) (c : Channel) : (s.setChan d c).fifo = s.fifo := by cases d <;> rfl
@[simp] theorem State.setChan_clkEnabled (s : State) (d : Dir) (c : Channel) : (s.setChan d c).clkEnabled = s.clkEnabled := by cases d <;> rfl
@[simp] theorem State.setChan_mem (s : State) (d : Dir) (c : Channel) : (s.setChan d c).mem = s.mem := by cases d <;> rfl
@[simp] theorem State.setChan_pipe (s : State) (d : Dir) (c : Channel) : (s.setChan d c).pipe = s.pipe := by cases d <;> rfl
@[simp] theorem State.setChan_ctrl (s : State) (d : Dir) (c : Channel) : (s.setChan d c).ctrl = s.ctrl := by cases d <;> rfl
@[simp] theorem State.setChan_cons (s : State) (d : Dir) (c : Channel) : (s.setChan d c).cons = s.cons := by cases d <;> rfl
@[simp] theorem State.setChan_faults (s : State) (d : Dir) (c : Channel) : (s.setChan d c).faults = s.faults := by cases d <;> rfl
@[simp] theorem State.setChan_refused (s : State) (d : Dir) (c : Channel) : (s.setChan d c).refused = s.refused := by cases d <;> rfl
@[simp] theorem State.setChan_traces (s : State) (d : Dir) (c : Channel) : (s.setChan d c).traces = s.traces := by cases d <;> rfl
@[simp] theorem State.setChan_inputs (s : State) (d : Dir) (c : Channel) : (s.setChan d c).inputs = s.inputs := by cases d <;> rfl

@[simp] theorem State.setChan_chan (s : State) (d : Dir) (c : Channel) : (s.setChan d c).chan d = c := by cases d <;> rfl

theorem State.setChan_chan_ne (s : State) {d e : Dir} (c : Channel) (h : e ≠ d) : (s.setChan d c).chan e = s.chan e := by
  cases d <;> cases e <;> first | rfl | exact absurd rfl h

@[simp] theorem State.setChan_rx (s : State) (c : Channel) : s.setChan .rx c = s.setDmaRx c := rfl

@[simp] theorem State.setChan_tx (s : State) (c : Channel) : s.setChan .tx c = s.setDmaTx c := rfl

@[simp] theorem State.chan_rx (s : State) : s.chan .rx = s.dmaRx := rfl

@[simp] theorem State.chan_tx (s : State) : s.chan .tx = s.dmaTx := rfl

/-- A channel is a matter of the two channel fields alone. -/
theorem State.chan_congr {s t : State} (hr : t.dmaRx = s.dmaRx) (ht : t.dmaTx = s.dmaTx) (d : Dir) : t.chan d = s.chan d := by
  cases d <;> assumption

@[simp] theorem State.setCtx_chan (s : State) (c : Ctx) (d : Dir) : (s.setCtx c).chan d = s.chan d := by cases d <;> rfl
@[simp] theorem State.setPr_chan (s : State) (p : Peripheral) (d : Dir) : (s.setPr p).chan d = s.chan d := by cases d <;> rfl
@[simp] theorem State.setFifo_chan (s : State) (f : Fifos) (d : Dir) : (s.setFifo f).chan d = s.chan d := by cases d <;> rfl
@[simp] theorem State.setClk_chan (s : State) (b : Bool) (d : Dir) : (s.setClk b).chan d = s.chan d := by cases d <;> rfl
@[simp] theorem State.setMem_chan (s : State) (m : Mem) (d : Dir) : (s.setMem m).chan d = s.chan d := by cases d <;> rfl
@[simp] theorem State.setPipe_chan (s : State) (p : Pipe) (d : Dir) : (s.setPipe p).chan d = s.chan d := by cases d <;> rfl
@[simp] theorem State.setCtrl_chan (s : State) (c : Ctrl) (d : Dir) : (s.setCtrl c).chan d = s.chan d := by cases d <;> rfl
@[simp] theorem State.setCons_chan (s : State) (c : Cons) (d : Dir) : (s.setCons c).chan d = s.chan d := by cases d <;> rfl
@[simp] theorem State.setTraces_chan (s : State) (t : Traces) (d : Dir) : (s.setTraces t).chan d = s.chan d := by cases d <;> rfl
@[simp] theorem State.setInputs_chan (s : State) (i : Inputs) (d : Dir) : (s.setInputs i).chan d = s.chan d := by cases d <;> rfl

end Sys2Proof.Machine
end

