-- ==== Sys2Proof/Laws/Engine.lean ====
section
/-! SUPPORT. How a command of CTRL goes on: one lemma per form of a micro-operation's answer, and runs put together (R12, R47). -/

namespace Sys2Proof.Machine

/-! ## What a sequence is ready for -/

/-- The item is an access: it is not merged with another one (R12). -/
def isAccess : Micro → Bool
  | .syncInit => false
  | .countRead => false
  | .countPop _ => false
  | .retain _ => false
  | .noteRate _ => false
  | .guardResolved => false
  | .guardConfigured => false
  | .guardPrepare _ => false
  | .guardSubmit => false
  | .setConfigured _ => false
  | .setCoord _ => false
  | .prime n => n != 0
  | .clearPoll _ n => n != 0
  | .ret _ => false
  | .retFirst => false
  | .readReg _ => true
  | .writeReg _ _ => true
  | .updRead _ _ _ => true
  | .updWrite _ _ _ _ => true
  | .clkSetRate => true
  | .clkEnable => true
  | .alloc => true
  | .slaveConfig _ => true
  | .prepCyclic _ => true
  | .submit _ _ => true
  | .issue _ => true
  | .terminate _ => true
  | .synchronize _ => true
  | .clearSave _ _ => true
  | .clearEcho => true
  | .syncStatus _ => true
  | .syncPush => true
  | .syncPop _ => true

theorem quiet_access {mi : Micro} (h : isAccess mi = true) (s : State) : quiet mi s = .access := by
  cases mi
  case prime n => exact if_neg (bne_iff_ne.mp h)
  case clearPoll _ n => exact if_neg (bne_iff_ne.mp h)
  all_goals first | rfl | exact absurd h Bool.false_ne_true

theorem runQuiet_access {mi : Micro} (h : isAccess mi = true) (n : Nat) (rest : List Micro) (s : State) :
    runQuiet n (mi :: rest) s = .access s mi rest := by
  unfold runQuiet
  split <;> try contradiction
  · next e => injection e with e1; subst e1; cases h
  · next e => injection e with e1; subst e1; cases h
  · next e =>
    injection e with e1 e2
    subst e1 e2
    rw [quiet_access h]

theorem runQuiet_ret (n : Nat) (c : Code) (rest : List Micro) (s : State) :
    runQuiet n (.ret c :: rest) s = .ended (endCommand n c s) := rfl

theorem runQuiet_retFirst (n : Nat) (rest : List Micro) (s : State) :
    runQuiet n (.retFirst :: rest) s = .ended (endCommand n s.ctrl.first s) := rfl

/-- A register-only item in front of a sequence acts and is gone. -/
theorem runQuiet_act {mi : Micro} {s t : State} (h : quiet mi s = .act t) (n : Nat) (rest : List Micro) :
    runQuiet n (mi :: rest) s = runQuiet n rest t := by
  rw [runQuiet.eq_def]
  cases mi <;> first | (simp only [h]; done) | cases h

/-- What register-only items leave alone: all but the Device Context and the log of popped words. -/
theorem quiet_frame {mi : Micro} {s t : State} (h : quiet mi s = .act t) :
    t = { s with ctx := t.ctx, traces := { s.traces with discardLog := t.traces.discardLog } } := by
  cases mi <;> simp only [quiet, guardThat] at h
  all_goals first
    | (injection h with h; subst h; rfl)
    | (split at h <;> first | (injection h with h; subst h; rfl) | injection h)
    | injection h

theorem runQuiet_frame {n : Nat} {todo rest : List Micro} {mi : Micro} {s u : State} (h : runQuiet n todo s = .access u mi rest) :
    u = { s with ctx := u.ctx, traces := { s.traces with discardLog := u.traces.discardLog } } := by
  induction todo generalizing s with
  | nil => cases h
  | cons x xs ih =>
    unfold runQuiet at h
    split at h
    · cases h
    · cases h
    · cases h
    · next e =>
      injection e with e1 e2
      subst e1 e2
      split at h
      · next t eq =>
        rw [ih h, quiet_frame eq]
      · cases h
      · cases h; rfl

/-- The operand words matter only where the command ends. -/
theorem runQuiet_nops {m n : Nat} {todo rest : List Micro} {mi : Micro} {s u : State} (h : runQuiet m todo s = .access u mi rest) :
    runQuiet n todo s = .access u mi rest := by
  induction todo generalizing s with
  | nil => cases h
  | cons x xs ih =>
    cases x
    case ret => cases h
    case retFirst => cases h
    all_goals
      rw [runQuiet] at h ⊢
      split at h
      · exact ih h
      · cases h
      · exact h
      all_goals (intros; contradiction)

/-- What CTRL accesses next is what its sequence comes to. -/
theorem nextAccess_runQuiet {s : State} {mi : Micro} (h : nextAccess s = some mi) (n : Nat) :
    ∃ u rest, runQuiet n s.ctrl.todo s = .access u mi rest := by
  unfold nextAccess at h
  split at h
  · next u x rest e =>
    cases h
    exact ⟨u, rest, runQuiet_nops e⟩
  · cases h

/-! ## One micro-operation -/

/-- The sequence comes to an access: what that answers. -/
theorem microStep_eq {n : Nat} {todo rest : List Micro} {mi : Micro} {s u : State} (h : runQuiet n todo s = .access u mi rest) :
    microStep n todo s =
      match access mi u with
      | .done t more => goOn n (more ++ rest) t
      | .replace t todo => goOn n todo t
      | .hold => .next s
      | .fault f => .fault f
      | .refused r => .refused r := by
  unfold microStep; simp only [h]; try rfl

/-- The item at the front is an access that is done: the items it asks for come before the rest. -/
theorem microStep_done {mi : Micro} {s t : State} {more : List Micro} (h : isAccess mi = true) (ha : access mi s = .done t more)
    (n : Nat) (rest : List Micro) : microStep n (mi :: rest) s = goOn n (more ++ rest) t := by
  rw [microStep_eq (runQuiet_access h n rest s), ha]

/-- The item at the front is an access that replaces the sequence. -/
theorem microStep_replace {mi : Micro} {s t : State} {todo : List Micro} (h : isAccess mi = true)
    (ha : access mi s = .replace t todo) (n : Nat) (rest : List Micro) : microStep n (mi :: rest) s = goOn n todo t := by
  rw [microStep_eq (runQuiet_access h n rest s), ha]

/-- An access is next: `m` counts the one just done and the sequence waits. -/
theorem goOn_access {mi : Micro} (h : isAccess mi = true) (n : Nat) (rest : List Micro) (s : State) :
    goOn n (mi :: rest) s = .next (s.setCtrl (ctrlOn s.ctrl (mi :: rest))) := by
  unfold goOn; rw [runQuiet_access h]; rfl

theorem goOn_ret (n : Nat) (c : Code) (rest : List Micro) (s : State) :
    goOn n (.ret c :: rest) s = .next (endCommand n c s) := rfl

theorem goOn_retFirst (n : Nat) (rest : List Micro) (s : State) :
    goOn n (.retFirst :: rest) s = .next (endCommand n s.ctrl.first s) := rfl

/-- What the rest of a sequence leads to: an access is next, or the command ends. -/
theorem goOn_ended {n : Nat} {todo : List Micro} {s t : State} (h : runQuiet n todo s = .ended t) : goOn n todo s = .next t := by
  unfold goOn; rw [h]

/-- A register-only item and then an access are next: both wait. -/
theorem goOn_wait {n : Nat} {todo : List Micro} {s : State} (h : ∀ t, runQuiet n todo s ≠ .ended t) :
    goOn n todo s = .next (s.setCtrl (ctrlOn s.ctrl todo)) := by
  unfold goOn
  split
  · next t e => exact absurd e (h t)
  · rfl

/-! ## Commands -/

/-- Past micro-step 0 every command of CTRL goes on with its sequence (R47). -/
theorem exec_goesOn {i : Instr} {s : State} (ha : cmdAgent i = .ctrl) (hm : s.ctrl.m ≠ 0) :
    exec i s = microStep (operandWords i) s.ctrl.todo s := by
  cases i <;> try contradiction
  all_goals
    simp only [exec, execRegRead, execRegWrite, execRegUpdateBits, execResolve, execClearRegisters, execConfigure, execEnable,
        execClearFifos, execPrimeTxFifo, execSyncFifos, execDmaPrepare, execDmaSubmit, execDmaTerminate, execInit, execBuffersSetup,
        execStop, execStart, execExit, runCommand, if_neg hm, operandWords, opcodeFor, opWords]

/-- At micro-step 0 a command begins. -/
theorem runCommand_begin {n : Nat} {begin : State → Begin} {s t : State} {todo : List Micro} (hm : s.ctrl.m = 0)
    (h : begin s = .run t todo) : runCommand n begin s = microStep n todo t := by
  unfold runCommand; rw [if_pos hm, h]

theorem runCommand_fault {n : Nat} {begin : State → Begin} {s : State} {f : Fault} (hm : s.ctrl.m = 0)
    (h : begin s = .fault f) : runCommand n begin s = .fault f := by
  unfold runCommand; rw [if_pos hm, h]

/-! ## Runs -/

theorem execFor_zero (i : Instr) (s : State) : execFor i 0 s = .next s := rfl

theorem execFor_succ {i : Instr} {s t : State} (h : exec i s = .next t) (n : Nat) : execFor i (n + 1) s = execFor i n t := by
  simp only [execFor, h]

theorem execFor_add {i : Instr} {n : Nat} {s t : State} (h : execFor i n s = .next t) (m : Nat) :
    execFor i (n + m) s = execFor i m t := by
  induction n generalizing s with
  | zero => cases h; rw [Nat.zero_add]
  | succ n ih =>
    rw [Nat.add_right_comm]
    cases e : exec i s with
    | next u => rw [execFor_succ e] at h ⊢; exact ih h
    | fault f => simp only [execFor, e] at h; cases h
    | refused r => simp only [execFor, e] at h; cases h

/-! ## Runs in which the channel that is waited for quiesces -/

theorem execQuiesced_zero (i : Instr) (s : State) : execQuiesced i 0 s = .next s := rfl

theorem execQuiesced_succ {i : Instr} {s t : State} (h : exec i s = .next t) (n : Nat) :
    execQuiesced i (n + 1) s = execQuiesced i n (quiesceWaited t) := by
  simp only [execQuiesced, h]

/-- CTRL waits for a channel that is stopping: it quiesces. -/
theorem quiesceWaited_stopping {s : State} {d : Dir} {rest : List Micro} (h : s.ctrl.todo = .synchronize d :: rest)
    (hp : (s.chan d).phase = .stopping) : quiesceWaited s = quiesceStep d s := by
  unfold quiesceWaited; rw [h]; exact if_pos hp

/-- Any other wait is over at once. -/
theorem quiesceWaited_other {s : State} {d : Dir} {rest : List Micro} (h : s.ctrl.todo = .synchronize d :: rest)
    (hp : (s.chan d).phase ≠ .stopping) : quiesceWaited s = s := by
  unfold quiesceWaited; rw [h]; exact if_neg hp

end Sys2Proof.Machine
end

