-- ==== Sys2Proof/Laws/Frames.lean ====
section
/-! SUPPORT. The frames of the shared operations: the fields each one leaves alone. -/

namespace Sys2Proof.Machine

/-! `setRxErr` -/

@[simp] theorem setRxErr_params (s : State) : (setRxErr s).params = s.params := rfl
@[simp] theorem setRxErr_ctx (s : State) : (setRxErr s).ctx = s.ctx := rfl
@[simp] theorem setRxErr_fifo (s : State) : (setRxErr s).fifo = s.fifo := rfl
@[simp] theorem setRxErr_dmaRx (s : State) : (setRxErr s).dmaRx = s.dmaRx := rfl
@[simp] theorem setRxErr_dmaTx (s : State) : (setRxErr s).dmaTx = s.dmaTx := rfl
@[simp] theorem setRxErr_clkEnabled (s : State) : (setRxErr s).clkEnabled = s.clkEnabled := rfl
@[simp] theorem setRxErr_mem (s : State) : (setRxErr s).mem = s.mem := rfl
@[simp] theorem setRxErr_pipe (s : State) : (setRxErr s).pipe = s.pipe := rfl
@[simp] theorem setRxErr_ctrl (s : State) : (setRxErr s).ctrl = s.ctrl := rfl
@[simp] theorem setRxErr_cons (s : State) : (setRxErr s).cons = s.cons := rfl
@[simp] theorem setRxErr_faults (s : State) : (setRxErr s).faults = s.faults := rfl
@[simp] theorem setRxErr_refused (s : State) : (setRxErr s).refused = s.refused := rfl
@[simp] theorem setRxErr_traces (s : State) : (setRxErr s).traces = s.traces := rfl
@[simp] theorem setRxErr_inputs (s : State) : (setRxErr s).inputs = s.inputs := rfl

/-! `setTxErr` -/

@[simp] theorem setTxErr_params (s : State) : (setTxErr s).params = s.params := rfl
@[simp] theorem setTxErr_ctx (s : State) : (setTxErr s).ctx = s.ctx := rfl
@[simp] theorem setTxErr_fifo (s : State) : (setTxErr s).fifo = s.fifo := rfl
@[simp] theorem setTxErr_dmaRx (s : State) : (setTxErr s).dmaRx = s.dmaRx := rfl
@[simp] theorem setTxErr_dmaTx (s : State) : (setTxErr s).dmaTx = s.dmaTx := rfl
@[simp] theorem setTxErr_clkEnabled (s : State) : (setTxErr s).clkEnabled = s.clkEnabled := rfl
@[simp] theorem setTxErr_mem (s : State) : (setTxErr s).mem = s.mem := rfl
@[simp] theorem setTxErr_pipe (s : State) : (setTxErr s).pipe = s.pipe := rfl
@[simp] theorem setTxErr_ctrl (s : State) : (setTxErr s).ctrl = s.ctrl := rfl
@[simp] theorem setTxErr_cons (s : State) : (setTxErr s).cons = s.cons := rfl
@[simp] theorem setTxErr_faults (s : State) : (setTxErr s).faults = s.faults := rfl
@[simp] theorem setTxErr_refused (s : State) : (setTxErr s).refused = s.refused := rfl
@[simp] theorem setTxErr_traces (s : State) : (setTxErr s).traces = s.traces := rfl
@[simp] theorem setTxErr_inputs (s : State) : (setTxErr s).inputs = s.inputs := rfl

/-! `writeCs` -/

@[simp] theorem writeCs_params (v : Word) (s : State) : (writeCs v s).params = s.params := rfl
@[simp] theorem writeCs_ctx (v : Word) (s : State) : (writeCs v s).ctx = s.ctx := rfl
@[simp] theorem writeCs_fifo (v : Word) (s : State) : (writeCs v s).fifo = s.fifo := rfl
@[simp] theorem writeCs_dmaRx (v : Word) (s : State) : (writeCs v s).dmaRx = s.dmaRx := rfl
@[simp] theorem writeCs_dmaTx (v : Word) (s : State) : (writeCs v s).dmaTx = s.dmaTx := rfl
@[simp] theorem writeCs_clkEnabled (v : Word) (s : State) : (writeCs v s).clkEnabled = s.clkEnabled := rfl
@[simp] theorem writeCs_mem (v : Word) (s : State) : (writeCs v s).mem = s.mem := rfl
@[simp] theorem writeCs_ctrl (v : Word) (s : State) : (writeCs v s).ctrl = s.ctrl := rfl
@[simp] theorem writeCs_cons (v : Word) (s : State) : (writeCs v s).cons = s.cons := rfl
@[simp] theorem writeCs_faults (v : Word) (s : State) : (writeCs v s).faults = s.faults := rfl
@[simp] theorem writeCs_refused (v : Word) (s : State) : (writeCs v s).refused = s.refused := rfl
@[simp] theorem writeCs_traces (v : Word) (s : State) : (writeCs v s).traces = s.traces := rfl
@[simp] theorem writeCs_inputs (v : Word) (s : State) : (writeCs v s).inputs = s.inputs := rfl

/-! `logEvent` -/

@[simp] theorem logEvent_params (e : Event) (s : State) : (logEvent e s).params = s.params := rfl
@[simp] theorem logEvent_ctx (e : Event) (s : State) : (logEvent e s).ctx = s.ctx := rfl
@[simp] theorem logEvent_pr (e : Event) (s : State) : (logEvent e s).pr = s.pr := rfl
@[simp] theorem logEvent_fifo (e : Event) (s : State) : (logEvent e s).fifo = s.fifo := rfl
@[simp] theorem logEvent_dmaRx (e : Event) (s : State) : (logEvent e s).dmaRx = s.dmaRx := rfl
@[simp] theorem logEvent_dmaTx (e : Event) (s : State) : (logEvent e s).dmaTx = s.dmaTx := rfl
@[simp] theorem logEvent_clkEnabled (e : Event) (s : State) : (logEvent e s).clkEnabled = s.clkEnabled := rfl
@[simp] theorem logEvent_mem (e : Event) (s : State) : (logEvent e s).mem = s.mem := rfl
@[simp] theorem logEvent_pipe (e : Event) (s : State) : (logEvent e s).pipe = s.pipe := rfl
@[simp] theorem logEvent_ctrl (e : Event) (s : State) : (logEvent e s).ctrl = s.ctrl := rfl
@[simp] theorem logEvent_cons (e : Event) (s : State) : (logEvent e s).cons = s.cons := rfl
@[simp] theorem logEvent_faults (e : Event) (s : State) : (logEvent e s).faults = s.faults := rfl
@[simp] theorem logEvent_refused (e : Event) (s : State) : (logEvent e s).refused = s.refused := rfl
@[simp] theorem logEvent_inputs (e : Event) (s : State) : (logEvent e s).inputs = s.inputs := rfl

/-! `afterAnswer` -/

@[simp] theorem afterAnswer_params (s : State) : (afterAnswer s).params = s.params := rfl
@[simp] theorem afterAnswer_ctx (s : State) : (afterAnswer s).ctx = s.ctx := rfl
@[simp] theorem afterAnswer_pr (s : State) : (afterAnswer s).pr = s.pr := rfl
@[simp] theorem afterAnswer_fifo (s : State) : (afterAnswer s).fifo = s.fifo := rfl
@[simp] theorem afterAnswer_dmaRx (s : State) : (afterAnswer s).dmaRx = s.dmaRx := rfl
@[simp] theorem afterAnswer_dmaTx (s : State) : (afterAnswer s).dmaTx = s.dmaTx := rfl
@[simp] theorem afterAnswer_clkEnabled (s : State) : (afterAnswer s).clkEnabled = s.clkEnabled := rfl
@[simp] theorem afterAnswer_mem (s : State) : (afterAnswer s).mem = s.mem := rfl
@[simp] theorem afterAnswer_pipe (s : State) : (afterAnswer s).pipe = s.pipe := rfl
@[simp] theorem afterAnswer_ctrl (s : State) : (afterAnswer s).ctrl = s.ctrl := rfl
@[simp] theorem afterAnswer_cons (s : State) : (afterAnswer s).cons = s.cons := rfl
@[simp] theorem afterAnswer_faults (s : State) : (afterAnswer s).faults = s.faults := rfl
@[simp] theorem afterAnswer_refused (s : State) : (afterAnswer s).refused = s.refused := rfl
@[simp] theorem afterAnswer_traces (s : State) : (afterAnswer s).traces = s.traces := rfl

/-! `afterBus` -/

@[simp] theorem afterBus_params (s : State) : (afterBus s).params = s.params := by unfold afterBus; split <;> rfl
@[simp] theorem afterBus_ctx (s : State) : (afterBus s).ctx = s.ctx := by unfold afterBus; split <;> rfl
@[simp] theorem afterBus_pr (s : State) : (afterBus s).pr = s.pr := by unfold afterBus; split <;> rfl
@[simp] theorem afterBus_fifo (s : State) : (afterBus s).fifo = s.fifo := by unfold afterBus; split <;> rfl
@[simp] theorem afterBus_dmaRx (s : State) : (afterBus s).dmaRx = s.dmaRx := by unfold afterBus; split <;> rfl
@[simp] theorem afterBus_dmaTx (s : State) : (afterBus s).dmaTx = s.dmaTx := by unfold afterBus; split <;> rfl
@[simp] theorem afterBus_clkEnabled (s : State) : (afterBus s).clkEnabled = s.clkEnabled := by unfold afterBus; split <;> rfl
@[simp] theorem afterBus_mem (s : State) : (afterBus s).mem = s.mem := by unfold afterBus; split <;> rfl
@[simp] theorem afterBus_pipe (s : State) : (afterBus s).pipe = s.pipe := by unfold afterBus; split <;> rfl
@[simp] theorem afterBus_ctrl (s : State) : (afterBus s).ctrl = s.ctrl := by unfold afterBus; split <;> rfl
@[simp] theorem afterBus_cons (s : State) : (afterBus s).cons = s.cons := by unfold afterBus; split <;> rfl
@[simp] theorem afterBus_faults (s : State) : (afterBus s).faults = s.faults := by unfold afterBus; split <;> rfl
@[simp] theorem afterBus_refused (s : State) : (afterBus s).refused = s.refused := by unfold afterBus; split <;> rfl
@[simp] theorem afterBus_traces (s : State) : (afterBus s).traces = s.traces := by unfold afterBus; split <;> rfl

/-! `endCommand` -/

@[simp] theorem endCommand_params (n : Nat) (c : Code) (s : State) : (endCommand n c s).params = s.params := rfl
@[simp] theorem endCommand_pr (n : Nat) (c : Code) (s : State) : (endCommand n c s).pr = s.pr := rfl
@[simp] theorem endCommand_fifo (n : Nat) (c : Code) (s : State) : (endCommand n c s).fifo = s.fifo := rfl
@[simp] theorem endCommand_dmaRx (n : Nat) (c : Code) (s : State) : (endCommand n c s).dmaRx = s.dmaRx := rfl
@[simp] theorem endCommand_dmaTx (n : Nat) (c : Code) (s : State) : (endCommand n c s).dmaTx = s.dmaTx := rfl
@[simp] theorem endCommand_clkEnabled (n : Nat) (c : Code) (s : State) : (endCommand n c s).clkEnabled = s.clkEnabled := rfl
@[simp] theorem endCommand_mem (n : Nat) (c : Code) (s : State) : (endCommand n c s).mem = s.mem := rfl
@[simp] theorem endCommand_pipe (n : Nat) (c : Code) (s : State) : (endCommand n c s).pipe = s.pipe := rfl
@[simp] theorem endCommand_cons (n : Nat) (c : Code) (s : State) : (endCommand n c s).cons = s.cons := rfl
@[simp] theorem endCommand_faults (n : Nat) (c : Code) (s : State) : (endCommand n c s).faults = s.faults := rfl
@[simp] theorem endCommand_refused (n : Nat) (c : Code) (s : State) : (endCommand n c s).refused = s.refused := rfl
@[simp] theorem endCommand_traces (n : Nat) (c : Code) (s : State) : (endCommand n c s).traces = s.traces := rfl
@[simp] theorem endCommand_inputs (n : Nat) (c : Code) (s : State) : (endCommand n c s).inputs = s.inputs := rfl

/-! `inspectErr` -/

@[simp] theorem inspectErr_params (d : Dir) (s : State) : (inspectErr d s).params = s.params := by unfold inspectErr; split <;> simp
@[simp] theorem inspectErr_pr (d : Dir) (s : State) : (inspectErr d s).pr = s.pr := by unfold inspectErr; split <;> simp
@[simp] theorem inspectErr_fifo (d : Dir) (s : State) : (inspectErr d s).fifo = s.fifo := by unfold inspectErr; split <;> simp
@[simp] theorem inspectErr_clkEnabled (d : Dir) (s : State) : (inspectErr d s).clkEnabled = s.clkEnabled := by unfold inspectErr; split <;> simp
@[simp] theorem inspectErr_mem (d : Dir) (s : State) : (inspectErr d s).mem = s.mem := by unfold inspectErr; split <;> simp
@[simp] theorem inspectErr_pipe (d : Dir) (s : State) : (inspectErr d s).pipe = s.pipe := by unfold inspectErr; split <;> simp
@[simp] theorem inspectErr_ctrl (d : Dir) (s : State) : (inspectErr d s).ctrl = s.ctrl := by unfold inspectErr; split <;> simp
@[simp] theorem inspectErr_cons (d : Dir) (s : State) : (inspectErr d s).cons = s.cons := by unfold inspectErr; split <;> simp
@[simp] theorem inspectErr_faults (d : Dir) (s : State) : (inspectErr d s).faults = s.faults := by unfold inspectErr; split <;> simp
@[simp] theorem inspectErr_refused (d : Dir) (s : State) : (inspectErr d s).refused = s.refused := by unfold inspectErr; split <;> simp
@[simp] theorem inspectErr_traces (d : Dir) (s : State) : (inspectErr d s).traces = s.traces := by unfold inspectErr; split <;> simp
@[simp] theorem inspectErr_inputs (d : Dir) (s : State) : (inspectErr d s).inputs = s.inputs := by unfold inspectErr; split <;> simp

/-! `takeCompletion` -/

@[simp] theorem takeCompletion_params (s : State) : (takeCompletion s).params = s.params := by simp [takeCompletion]
@[simp] theorem takeCompletion_pr (s : State) : (takeCompletion s).pr = s.pr := by simp [takeCompletion]
@[simp] theorem takeCompletion_fifo (s : State) : (takeCompletion s).fifo = s.fifo := by simp [takeCompletion]
@[simp] theorem takeCompletion_clkEnabled (s : State) : (takeCompletion s).clkEnabled = s.clkEnabled := by simp [takeCompletion]
@[simp] theorem takeCompletion_mem (s : State) : (takeCompletion s).mem = s.mem := by simp [takeCompletion]
@[simp] theorem takeCompletion_pipe (s : State) : (takeCompletion s).pipe = s.pipe := by simp [takeCompletion]
@[simp] theorem takeCompletion_ctrl (s : State) : (takeCompletion s).ctrl = s.ctrl := by simp [takeCompletion]
@[simp] theorem takeCompletion_cons (s : State) : (takeCompletion s).cons = s.cons := by simp [takeCompletion]
@[simp] theorem takeCompletion_faults (s : State) : (takeCompletion s).faults = s.faults := by simp [takeCompletion]
@[simp] theorem takeCompletion_refused (s : State) : (takeCompletion s).refused = s.refused := by simp [takeCompletion]
@[simp] theorem takeCompletion_traces (s : State) : (takeCompletion s).traces = s.traces := by simp [takeCompletion]
@[simp] theorem takeCompletion_inputs (s : State) : (takeCompletion s).inputs = s.inputs := by simp [takeCompletion]

/-! `pcmClock` -/

@[simp] theorem pcmClock_params (s : State) : (pcmClock s).params = s.params := rfl
@[simp] theorem pcmClock_ctx (s : State) : (pcmClock s).ctx = s.ctx := rfl
@[simp] theorem pcmClock_pr (s : State) : (pcmClock s).pr = s.pr := rfl
@[simp] theorem pcmClock_dmaRx (s : State) : (pcmClock s).dmaRx = s.dmaRx := rfl
@[simp] theorem pcmClock_dmaTx (s : State) : (pcmClock s).dmaTx = s.dmaTx := rfl
@[simp] theorem pcmClock_clkEnabled (s : State) : (pcmClock s).clkEnabled = s.clkEnabled := rfl
@[simp] theorem pcmClock_mem (s : State) : (pcmClock s).mem = s.mem := rfl
@[simp] theorem pcmClock_ctrl (s : State) : (pcmClock s).ctrl = s.ctrl := rfl
@[simp] theorem pcmClock_cons (s : State) : (pcmClock s).cons = s.cons := rfl
@[simp] theorem pcmClock_faults (s : State) : (pcmClock s).faults = s.faults := rfl
@[simp] theorem pcmClock_refused (s : State) : (pcmClock s).refused = s.refused := rfl
@[simp] theorem pcmClock_traces (s : State) : (pcmClock s).traces = s.traces := rfl
@[simp] theorem pcmClock_inputs (s : State) : (pcmClock s).inputs = s.inputs := rfl

/-! `slotTx` -/

@[simp] theorem slotTx_params (s : State) : (slotTx s).params = s.params := by unfold slotTx; split <;> simp
@[simp] theorem slotTx_ctx (s : State) : (slotTx s).ctx = s.ctx := by unfold slotTx; split <;> simp
@[simp] theorem slotTx_dmaRx (s : State) : (slotTx s).dmaRx = s.dmaRx := by unfold slotTx; split <;> simp
@[simp] theorem slotTx_dmaTx (s : State) : (slotTx s).dmaTx = s.dmaTx := by unfold slotTx; split <;> simp
@[simp] theorem slotTx_clkEnabled (s : State) : (slotTx s).clkEnabled = s.clkEnabled := by unfold slotTx; split <;> simp
@[simp] theorem slotTx_mem (s : State) : (slotTx s).mem = s.mem := by unfold slotTx; split <;> simp
@[simp] theorem slotTx_pipe (s : State) : (slotTx s).pipe = s.pipe := by unfold slotTx; split <;> simp
@[simp] theorem slotTx_ctrl (s : State) : (slotTx s).ctrl = s.ctrl := by unfold slotTx; split <;> simp
@[simp] theorem slotTx_cons (s : State) : (slotTx s).cons = s.cons := by unfold slotTx; split <;> simp
@[simp] theorem slotTx_faults (s : State) : (slotTx s).faults = s.faults := by unfold slotTx; split <;> simp
@[simp] theorem slotTx_refused (s : State) : (slotTx s).refused = s.refused := by unfold slotTx; split <;> simp

/-! `slotRx` -/

@[simp] theorem slotRx_params (s : State) : (slotRx s).params = s.params := by unfold slotRx; dsimp only; split <;> simp
@[simp] theorem slotRx_ctx (s : State) : (slotRx s).ctx = s.ctx := by unfold slotRx; dsimp only; split <;> simp
@[simp] theorem slotRx_dmaRx (s : State) : (slotRx s).dmaRx = s.dmaRx := by unfold slotRx; dsimp only; split <;> simp
@[simp] theorem slotRx_dmaTx (s : State) : (slotRx s).dmaTx = s.dmaTx := by unfold slotRx; dsimp only; split <;> simp
@[simp] theorem slotRx_clkEnabled (s : State) : (slotRx s).clkEnabled = s.clkEnabled := by unfold slotRx; dsimp only; split <;> simp
@[simp] theorem slotRx_mem (s : State) : (slotRx s).mem = s.mem := by unfold slotRx; dsimp only; split <;> simp
@[simp] theorem slotRx_pipe (s : State) : (slotRx s).pipe = s.pipe := by unfold slotRx; dsimp only; split <;> simp
@[simp] theorem slotRx_ctrl (s : State) : (slotRx s).ctrl = s.ctrl := by unfold slotRx; dsimp only; split <;> simp
@[simp] theorem slotRx_cons (s : State) : (slotRx s).cons = s.cons := by unfold slotRx; dsimp only; split <;> simp
@[simp] theorem slotRx_faults (s : State) : (slotRx s).faults = s.faults := by unfold slotRx; dsimp only; split <;> simp
@[simp] theorem slotRx_refused (s : State) : (slotRx s).refused = s.refused := by unfold slotRx; dsimp only; split <;> simp
@[simp] theorem slotRx_traces (s : State) : (slotRx s).traces = s.traces := by unfold slotRx; dsimp only; split <;> simp

/-! `slotEffect` -/

@[simp] theorem slotEffect_params (s : State) : (slotEffect s).params = s.params := by unfold slotEffect; dsimp only; split <;> split <;> simp
@[simp] theorem slotEffect_ctx (s : State) : (slotEffect s).ctx = s.ctx := by unfold slotEffect; dsimp only; split <;> split <;> simp
@[simp] theorem slotEffect_dmaRx (s : State) : (slotEffect s).dmaRx = s.dmaRx := by unfold slotEffect; dsimp only; split <;> split <;> simp
@[simp] theorem slotEffect_dmaTx (s : State) : (slotEffect s).dmaTx = s.dmaTx := by unfold slotEffect; dsimp only; split <;> split <;> simp
@[simp] theorem slotEffect_clkEnabled (s : State) : (slotEffect s).clkEnabled = s.clkEnabled := by unfold slotEffect; dsimp only; split <;> split <;> simp
@[simp] theorem slotEffect_mem (s : State) : (slotEffect s).mem = s.mem := by unfold slotEffect; dsimp only; split <;> split <;> simp
@[simp] theorem slotEffect_ctrl (s : State) : (slotEffect s).ctrl = s.ctrl := by unfold slotEffect; dsimp only; split <;> split <;> simp
@[simp] theorem slotEffect_cons (s : State) : (slotEffect s).cons = s.cons := by unfold slotEffect; dsimp only; split <;> split <;> simp
@[simp] theorem slotEffect_faults (s : State) : (slotEffect s).faults = s.faults := by unfold slotEffect; dsimp only; split <;> split <;> simp
@[simp] theorem slotEffect_refused (s : State) : (slotEffect s).refused = s.refused := by unfold slotEffect; dsimp only; split <;> split <;> simp

/-! `quiesceStep` -/

@[simp] theorem quiesceStep_params (d : Dir) (s : State) : (quiesceStep d s).params = s.params := by simp [quiesceStep]
@[simp] theorem quiesceStep_ctx (d : Dir) (s : State) : (quiesceStep d s).ctx = s.ctx := by simp [quiesceStep]
@[simp] theorem quiesceStep_pr (d : Dir) (s : State) : (quiesceStep d s).pr = s.pr := by simp [quiesceStep]
@[simp] theorem quiesceStep_fifo (d : Dir) (s : State) : (quiesceStep d s).fifo = s.fifo := by simp [quiesceStep]
@[simp] theorem quiesceStep_clkEnabled (d : Dir) (s : State) : (quiesceStep d s).clkEnabled = s.clkEnabled := by simp [quiesceStep]
@[simp] theorem quiesceStep_mem (d : Dir) (s : State) : (quiesceStep d s).mem = s.mem := by simp [quiesceStep]
@[simp] theorem quiesceStep_pipe (d : Dir) (s : State) : (quiesceStep d s).pipe = s.pipe := by simp [quiesceStep]
@[simp] theorem quiesceStep_ctrl (d : Dir) (s : State) : (quiesceStep d s).ctrl = s.ctrl := by simp [quiesceStep]
@[simp] theorem quiesceStep_cons (d : Dir) (s : State) : (quiesceStep d s).cons = s.cons := by simp [quiesceStep]
@[simp] theorem quiesceStep_faults (d : Dir) (s : State) : (quiesceStep d s).faults = s.faults := by simp [quiesceStep]
@[simp] theorem quiesceStep_refused (d : Dir) (s : State) : (quiesceStep d s).refused = s.refused := by simp [quiesceStep]
@[simp] theorem quiesceStep_traces (d : Dir) (s : State) : (quiesceStep d s).traces = s.traces := by simp [quiesceStep]
@[simp] theorem quiesceStep_inputs (d : Dir) (s : State) : (quiesceStep d s).inputs = s.inputs := by simp [quiesceStep]

/-! `envErrorStep` -/

@[simp] theorem envErrorStep_params (d : Dir) (s : State) : (envErrorStep d s).params = s.params := by simp [envErrorStep]
@[simp] theorem envErrorStep_ctx (d : Dir) (s : State) : (envErrorStep d s).ctx = s.ctx := by simp [envErrorStep]
@[simp] theorem envErrorStep_pr (d : Dir) (s : State) : (envErrorStep d s).pr = s.pr := by simp [envErrorStep]
@[simp] theorem envErrorStep_fifo (d : Dir) (s : State) : (envErrorStep d s).fifo = s.fifo := by simp [envErrorStep]
@[simp] theorem envErrorStep_clkEnabled (d : Dir) (s : State) : (envErrorStep d s).clkEnabled = s.clkEnabled := by simp [envErrorStep]
@[simp] theorem envErrorStep_mem (d : Dir) (s : State) : (envErrorStep d s).mem = s.mem := by simp [envErrorStep]
@[simp] theorem envErrorStep_pipe (d : Dir) (s : State) : (envErrorStep d s).pipe = s.pipe := by simp [envErrorStep]
@[simp] theorem envErrorStep_ctrl (d : Dir) (s : State) : (envErrorStep d s).ctrl = s.ctrl := by simp [envErrorStep]
@[simp] theorem envErrorStep_cons (d : Dir) (s : State) : (envErrorStep d s).cons = s.cons := by simp [envErrorStep]
@[simp] theorem envErrorStep_faults (d : Dir) (s : State) : (envErrorStep d s).faults = s.faults := by simp [envErrorStep]
@[simp] theorem envErrorStep_refused (d : Dir) (s : State) : (envErrorStep d s).refused = s.refused := by simp [envErrorStep]
@[simp] theorem envErrorStep_traces (d : Dir) (s : State) : (envErrorStep d s).traces = s.traces := by simp [envErrorStep]
@[simp] theorem envErrorStep_inputs (d : Dir) (s : State) : (envErrorStep d s).inputs = s.inputs := by simp [envErrorStep]

/-! `envTxwStep` -/

@[simp] theorem envTxwStep_params (s : State) : (envTxwStep s).params = s.params := rfl
@[simp] theorem envTxwStep_ctx (s : State) : (envTxwStep s).ctx = s.ctx := rfl
@[simp] theorem envTxwStep_fifo (s : State) : (envTxwStep s).fifo = s.fifo := rfl
@[simp] theorem envTxwStep_dmaRx (s : State) : (envTxwStep s).dmaRx = s.dmaRx := rfl
@[simp] theorem envTxwStep_dmaTx (s : State) : (envTxwStep s).dmaTx = s.dmaTx := rfl
@[simp] theorem envTxwStep_clkEnabled (s : State) : (envTxwStep s).clkEnabled = s.clkEnabled := rfl
@[simp] theorem envTxwStep_mem (s : State) : (envTxwStep s).mem = s.mem := rfl
@[simp] theorem envTxwStep_pipe (s : State) : (envTxwStep s).pipe = s.pipe := rfl
@[simp] theorem envTxwStep_ctrl (s : State) : (envTxwStep s).ctrl = s.ctrl := rfl
@[simp] theorem envTxwStep_cons (s : State) : (envTxwStep s).cons = s.cons := rfl
@[simp] theorem envTxwStep_faults (s : State) : (envTxwStep s).faults = s.faults := rfl
@[simp] theorem envTxwStep_refused (s : State) : (envTxwStep s).refused = s.refused := rfl
@[simp] theorem envTxwStep_traces (s : State) : (envTxwStep s).traces = s.traces := rfl
@[simp] theorem envTxwStep_inputs (s : State) : (envTxwStep s).inputs = s.inputs := rfl

/-! `envRxrStep` -/

@[simp] theorem envRxrStep_params (s : State) : (envRxrStep s).params = s.params := rfl
@[simp] theorem envRxrStep_ctx (s : State) : (envRxrStep s).ctx = s.ctx := rfl
@[simp] theorem envRxrStep_fifo (s : State) : (envRxrStep s).fifo = s.fifo := rfl
@[simp] theorem envRxrStep_dmaRx (s : State) : (envRxrStep s).dmaRx = s.dmaRx := rfl
@[simp] theorem envRxrStep_dmaTx (s : State) : (envRxrStep s).dmaTx = s.dmaTx := rfl
@[simp] theorem envRxrStep_clkEnabled (s : State) : (envRxrStep s).clkEnabled = s.clkEnabled := rfl
@[simp] theorem envRxrStep_mem (s : State) : (envRxrStep s).mem = s.mem := rfl
@[simp] theorem envRxrStep_pipe (s : State) : (envRxrStep s).pipe = s.pipe := rfl
@[simp] theorem envRxrStep_ctrl (s : State) : (envRxrStep s).ctrl = s.ctrl := rfl
@[simp] theorem envRxrStep_cons (s : State) : (envRxrStep s).cons = s.cons := rfl
@[simp] theorem envRxrStep_faults (s : State) : (envRxrStep s).faults = s.faults := rfl
@[simp] theorem envRxrStep_refused (s : State) : (envRxrStep s).refused = s.refused := rfl
@[simp] theorem envRxrStep_traces (s : State) : (envRxrStep s).traces = s.traces := rfl
@[simp] theorem envRxrStep_inputs (s : State) : (envRxrStep s).inputs = s.inputs := rfl

/-! Channels -/

@[simp] theorem setRxErr_chan (s : State) (d : Dir) : (setRxErr s).chan d = s.chan d :=
  State.chan_congr (by simp) (by simp) d
@[simp] theorem writeCs_chan (v : Word) (s : State) (d : Dir) : (writeCs v s).chan d = s.chan d :=
  State.chan_congr (by simp) (by simp) d
@[simp] theorem logEvent_chan (e : Event) (s : State) (d : Dir) : (logEvent e s).chan d = s.chan d :=
  State.chan_congr (by simp) (by simp) d
@[simp] theorem afterAnswer_chan (s : State) (d : Dir) : (afterAnswer s).chan d = s.chan d :=
  State.chan_congr (by simp) (by simp) d
@[simp] theorem endCommand_chan (n : Nat) (c : Code) (s : State) (d : Dir) : (endCommand n c s).chan d = s.chan d :=
  State.chan_congr (by simp) (by simp) d
@[simp] theorem pcmClock_chan (s : State) (d : Dir) : (pcmClock s).chan d = s.chan d :=
  State.chan_congr (by simp) (by simp) d
@[simp] theorem slotEffect_chan (s : State) (d : Dir) : (slotEffect s).chan d = s.chan d :=
  State.chan_congr (by simp) (by simp) d
@[simp] theorem envTxwStep_chan (s : State) (d : Dir) : (envTxwStep s).chan d = s.chan d :=
  State.chan_congr (by simp) (by simp) d
@[simp] theorem envRxrStep_chan (s : State) (d : Dir) : (envRxrStep s).chan d = s.chan d :=
  State.chan_congr (by simp) (by simp) d
@[simp] theorem afterBus_chan (s : State) (d : Dir) : (afterBus s).chan d = s.chan d :=
  State.chan_congr (by simp) (by simp) d

/-- What taking a completion does to each channel: nothing to its phase, descriptor or position, and its pending count falls by at most one. -/
theorem takeCompletion_chan (s : State) (d : Dir) :
    (takeCompletion s).chan d =
      { s.chan d with
        pending := if d = s.params.callbackDir then (s.chan d).pending - 1 else (s.chan d).pending
        err := false } := by
  have key : ∀ (u : State) (a b : Dir), (inspectErr a u).chan b = if b = a then { u.chan b with err := false } else u.chan b := by
    intro u a b
    unfold inspectErr
    by_cases hb : b = a
    · subst hb
      split
      · simp
      · next he => simp only [if_true]; rw [← Bool.eq_false_iff.mpr he]
    · simp only [hb, if_false]
      split
      · rw [State.setChan_chan_ne _ _ hb]; simp
      · rfl
  unfold takeCompletion
  rw [key, key]
  cases hc : s.params.callbackDir <;> cases d <;> simp

/-- What taking a completion does to the block's registers (R320). -/
theorem takeCompletion_ctx (s : State) :
    (takeCompletion s).ctx =
      { s.ctx with
        irqCount := s.ctx.irqCount + 1#32
        bufIdx := !s.ctx.bufIdx
        notify := true
        dmaErrors := s.ctx.dmaErrors + (if s.dmaRx.err then 1#32 else 0#32) + (if s.dmaTx.err then 1#32 else 0#32) } := by
  cases hc : s.params.callbackDir <;> cases hr : s.dmaRx.err <;> cases ht : s.dmaTx.err <;>
    simp [takeCompletion, inspectErr, hc, hr, ht]

/-! What a SLOT step does to the FIFOs and the error flags (R372) -/

theorem slotTx_fifo (s : State) : (slotTx s).fifo = { s.fifo with tx := s.fifo.tx.drop 1 } := by
  obtain ⟨⟨tx, rx⟩, hf⟩ : ∃ f, s.fifo = f := ⟨_, rfl⟩
  cases tx <;> simp [slotTx, hf]

theorem slotTx_pr (s : State) : (slotTx s).pr = if s.fifo.tx = [] then (setTxErr s).pr else s.pr := by
  cases h : s.fifo.tx <;> simp [slotTx, h, setTxErr]

theorem slotTx_inputs (s : State) : (slotTx s).inputs = if s.fifo.tx = [] then (drawOf s.inputs).2 else s.inputs := by
  cases h : s.fifo.tx <;> simp [slotTx, h]

theorem slotTx_traces (s : State) :
    (slotTx s).traces =
      { s.traces with txLine := s.traces.txLine ++ [(s.pipe.slotPhase, s.fifo.tx.headD (drawOf s.inputs).1)] } := by
  cases h : s.fifo.tx <;> simp [slotTx, h]

theorem slotRx_fifo (s : State) :
    (slotRx s).fifo =
      if s.fifo.rx.length < s.params.fifoDepth then
        { s.fifo with rx := s.fifo.rx ++ [⟨(rxWordOf s.inputs).1, s.pipe.slotPhase⟩] }
      else s.fifo := by
  unfold slotRx; dsimp only; split <;> simp

theorem slotRx_pr (s : State) :
    (slotRx s).pr = if s.fifo.rx.length < s.params.fifoDepth then s.pr else (setRxErr s).pr := by
  unfold slotRx; dsimp only; split <;> simp [setRxErr]

theorem slotRx_inputs (s : State) : (slotRx s).inputs = (rxWordOf s.inputs).2 := by
  unfold slotRx; dsimp only; split <;> simp

end Sys2Proof.Machine
end

