-- ==== Sys2Proof/Laws/Lift.lean ====
section
/-! SUPPORT. What one micro-operation can do to the state, said once: a property that each single update keeps is kept by every
access, by every command and by every micro-operation of one. -/

namespace Sys2Proof.Machine

/-- The single updates the commands of CTRL make. A property that every one of them keeps is kept by every command. -/
structure Keeps (P : State → Prop) : Prop where
  inputs : ∀ s i, i.moves = s.inputs.moves → i.rxWords = s.inputs.rxWords → P s → P (s.setInputs i)
  traces : ∀ s t, t.txLine = s.traces.txLine → P s → P (s.setTraces t)
  ctrl : ∀ s c, c.stream = s.ctrl.stream → P s → P (s.setCtrl c)
  lastRead : ∀ s v, P s → P (s.setCtx { s.ctx with lastRead := some v })
  sync : ∀ s y, P s → P (s.setCtx { s.ctx with sync := y })
  configured : ∀ s b, P s → P (s.setCtx { s.ctx with configured := b })
  coord : ∀ s c, P s → P (s.setCtx { s.ctx with state := c })
  timeouts : ∀ s w, P s → P (s.setCtx { s.ctx with clearTimeouts := w })
  result : ∀ s c, P s → P (s.setCtx { s.ctx with result := c })
  clkRate : ∀ s w b, P s → P (s.setCtx { s.ctx with clkRate := w, clkRateErr := b })
  clk : ∀ s b, P s → P (s.setClk b)
  slave : ∀ s d c, P s → P (s.setChan d { s.chan d with slave := some c })
  submit : ∀ s d, P s → P (s.setChan d (submitChannel (s.chan d)))
  issue : ∀ s d, P s → P (s.setChan d (issueChannel (s.chan d)))
  terminate : ∀ s d, P s → P (s.setChan d (terminateChannel (s.chan d)))
  synchronize : ∀ s d, quiesced (s.chan d) = true → P s → P (s.setChan d (syncChannel (s.chan d)))
  pop : ∀ s e rest, s.fifo.rx = e :: rest → P s → P (s.setFifo { s.fifo with rx := rest })
  rxErr : ∀ s, P s → P (setRxErr s)
  push : ∀ s v, s.fifo.tx.length < s.params.fifoDepth → P s → P (s.setFifo { s.fifo with tx := s.fifo.tx ++ [v] })
  cs : ∀ s v, P s → P (writeCs v s)
  mode : ∀ s v, v &&& modeRefused s.params.regmap.mode = 0#32 → P s →
    P (s.setPr { s.pr with mode := v &&& modeKnown s.params.regmap.mode })
  rxc : ∀ s v, P s → P (s.setPr { s.pr with rxc := v &&& formatKnown s.params.regmap.fmt })
  txc : ∀ s v, P s → P (s.setPr { s.pr with txc := v &&& formatKnown s.params.regmap.fmt })
  dreq : ∀ s v, P s → P (s.setPr { s.pr with dreq := v &&& dreqKnown s.params.regmap.dreq })
  inten : ∀ s v, P s → P (s.setPr { s.pr with inten := v &&& intKnown s.params.regmap.int })
  intstc : ∀ s v, P s → P (s.setPr { s.pr with intstc := s.pr.intstc &&& ~~~ v })

variable {P : State → Prop}

/-! ## The inputs a command takes: draws, answers and the allocator's answer, never a move or a codec word -/

theorem drawOf_keeps (i : Inputs) : (drawOf i).2.moves = i.moves ∧ (drawOf i).2.rxWords = i.rxWords := by
  unfold drawOf; split <;> exact ⟨rfl, rfl⟩

theorem answerOf_keeps (i : Inputs) : (answerOf i).2.moves = i.moves ∧ (answerOf i).2.rxWords = i.rxWords := by
  unfold answerOf; split <;> exact ⟨rfl, rfl⟩

theorem allocOf_keeps (i : Inputs) : (allocOf i).2.moves = i.moves ∧ (allocOf i).2.rxWords = i.rxWords := by
  unfold allocOf; split <;> exact ⟨rfl, rfl⟩

theorem Keeps.draw (k : Keeps P) {s : State} (h : P s) : P (s.setInputs (drawOf s.inputs).2) :=
  k.inputs _ _ (drawOf_keeps _).1 (drawOf_keeps _).2 h

theorem Keeps.answer (k : Keeps P) {s : State} (h : P s) : P (s.setInputs (answerOf s.inputs).2) :=
  k.inputs _ _ (answerOf_keeps _).1 (answerOf_keeps _).2 h

theorem Keeps.allocAnswer (k : Keeps P) {s : State} (h : P s) : P (s.setInputs (allocOf s.inputs).2) :=
  k.inputs _ _ (allocOf_keeps _).1 (allocOf_keeps _).2 h

/-! ## Register accesses -/

theorem Keeps.readOnBus (k : Keeps P) {r : Reg} {s t : State} {v : Word} (h : P s) (e : readOnBus r s = .ok v t) : P t := by
  cases r <;> simp only [Sys2Proof.Machine.readOnBus, fifoPop] at e
  case fifoA =>
    split at e
    · split at e
      · next x rest hx => cases e; exact k.pop s x rest hx h
      · cases e; exact k.rxErr _ (k.draw h)
    · cases e
  all_goals cases e; exact k.draw h

theorem Keeps.afterBus (k : Keeps P) {s : State} (h : P s) : P (afterBus s) := by
  unfold Sys2Proof.Machine.afterBus; split
  · exact k.answer h
  · exact h

/-- A register read keeps the property. -/
theorem Keeps.regRead (k : Keeps P) {r : Reg} {s t : State} {v : Word} (h : P s) (e : regRead r s = .ok v t) : P t := by
  unfold Sys2Proof.Machine.regRead at e; split at e
  · exact k.readOnBus (k.afterBus h) e
  · cases e

theorem Keeps.writeOnBus (k : Keeps P) {r : Reg} {s t : State} {v : Word} (h : P s) (e : writeOnBus r v s = .ok () t) : P t := by
  cases r <;> simp only [Sys2Proof.Machine.writeOnBus, fifoPush] at e
  case csA => cases e; exact k.cs s v h
  case fifoA =>
    split at e
    · split at e
      · next hl => cases e; exact k.push s v hl h
      · cases e
    · cases e
  case modeA =>
    split at e
    · next hm => cases e; exact k.mode s v hm h
    · cases e
  case rxcA => cases e; exact k.rxc s v h
  case txcA => cases e; exact k.txc s v h
  case dreqA => cases e; exact k.dreq s v h
  case intenA => cases e; exact k.inten s v h
  case intstcA => cases e; exact k.intstc s v h
  case gray => cases e

/-- A register write keeps the property. -/
theorem Keeps.regWrite (k : Keeps P) {r : Reg} {s t : State} {v : Word} (h : P s) (e : regWrite r v s = .ok () t) : P t := by
  unfold Sys2Proof.Machine.regWrite at e; split at e
  · exact k.writeOnBus (k.afterBus h) e
  · cases e

/-! ## Accesses of a sequence -/

/-- The states an access ends in have the property. -/
def Act.All (P : State → Prop) : Act → Prop
  | .done s _ => P s
  | .replace s _ => P s
  | .hold => True
  | .fault _ => True
  | .refused _ => True

theorem Keeps.actRead (k : Keeps P) {r : Reg} {s : State} {next : Word → State → Act} (h : P s)
    (hn : ∀ v t, P t → (next v t).All P) : (actRead r s next).All P := by
  unfold Sys2Proof.Machine.actRead; split
  · next e => exact hn _ _ (k.regRead h e)
  · trivial
  · trivial

theorem Keeps.actWrite (k : Keeps P) {r : Reg} {v : Word} {s : State} {next : State → Act} (h : P s)
    (hn : ∀ t, P t → (next t).All P) : (actWrite r v s next).All P := by
  unfold Sys2Proof.Machine.actWrite; split
  · next e => exact hn _ (k.regWrite h e)
  · trivial
  · trivial

theorem Keeps.logEvent (k : Keeps P) {s : State} (e : Event) (h : P s) : P (logEvent e s) := k.traces _ _ rfl h

theorem syncAgain_all {s : State} (b : Bool) (n : Word) (pre : List Micro) (h : P s) : (syncAgain b n pre s).All P := by
  unfold Sys2Proof.Machine.syncAgain; split <;> exact h

theorem syncPopped_all {s : State} (b : Bool) (w : Word) (h : P s) : (syncPopped b w s).All P := by
  unfold Sys2Proof.Machine.syncPopped
  split
  · exact h
  · exact syncAgain_all b _ _ h

/-- Every access but the allocator's and the descriptor's keeps the property; those two have updates of their own. -/
theorem Keeps.access (k : Keeps P) {mi : Micro} {s : State} (h : P s)
    (halloc : mi = .alloc → ∀ t virt phys size, P t → t.ctx = s.ctx → t.dmaRx = s.dmaRx → t.dmaTx = s.dmaTx → t.ctrl = s.ctrl →
      t.params = s.params → allocOk s.params.maxBufferBytes phys size = true →
      P (t.setCtx { t.ctx with region := ⟨virt, phys, size⟩, initDone := true }))
    (hprep : ∀ d, mi = .prepCyclic d → ∀ t, P t → t.ctx = s.ctx → t.dmaRx = s.dmaRx → t.dmaTx = s.dmaTx → t.ctrl = s.ctrl →
      t.params = s.params → P (t.setChan d (prepChannel (t.chan d) (descOf s.params s.ctx.geom d)))) :
    (access mi s).All P := by
  cases mi with
  | readReg r => exact k.actRead h fun v t ht => k.lastRead t v ht
  | writeReg r v => exact k.actWrite h fun t ht => ht
  | updRead r m v => exact k.actRead h fun v t ht => ht
  | updWrite r o m v =>
    simp only [Sys2Proof.Machine.access]; split
    · exact k.actWrite h fun t ht => ht
    · exact h
  | clkSetRate => exact k.logEvent _ (k.answer h)
  | clkEnable => exact k.traces _ _ rfl (k.clk _ _ (k.answer h))
  | alloc =>
    simp only [Sys2Proof.Machine.access]
    have h1 := k.logEvent (.alloc s.params.maxBufferBytes (allocOf s.inputs).1) (k.allocAnswer h)
    split
    · exact h1
    · split
      · next hok => exact halloc rfl _ _ _ _ h1 rfl rfl rfl rfl rfl hok
      · trivial
  | slaveConfig d =>
    simp only [Sys2Proof.Machine.access]; split
    · exact k.slave _ _ _ (k.logEvent _ (k.answer h))
    · exact k.logEvent _ (k.answer h)
  | prepCyclic d =>
    simp only [Sys2Proof.Machine.access]; split
    · exact hprep d rfl _ (k.logEvent _ (k.answer h)) rfl rfl rfl rfl rfl
    · exact k.logEvent _ (k.answer h)
  | submit d u =>
    simp only [Sys2Proof.Machine.access]; split
    · exact k.submit _ _ (k.logEvent _ (k.answer h))
    · exact k.logEvent _ (k.answer h)
  | issue d => exact k.issue _ _ (k.logEvent _ h)
  | terminate d =>
    simp only [Sys2Proof.Machine.access]; split
    · exact k.terminate _ _ (k.logEvent _ (k.answer h))
    · exact k.ctrl _ _ rfl (k.logEvent _ (k.answer h))
  | synchronize d =>
    simp only [Sys2Proof.Machine.access]; split
    · next hq => exact k.synchronize _ _ (by simpa [Sys2Proof.Machine.logEvent] using hq) (k.logEvent _ h)
    · trivial
  | prime n =>
    cases n with
    | zero => exact h
    | succ n => exact k.actWrite h fun t ht => ht
  | clearSave tx rx => exact k.actRead h fun v t ht => ht
  | clearEcho => exact k.actRead h fun v t ht => ht
  | clearPoll e n =>
    cases n with
    | zero => exact h
    | succ n => exact k.actRead h fun v t ht => ht
  | syncStatus b =>
    refine k.actRead h fun v t ht => ?_
    split
    · exact ht
    · exact syncAgain_all b _ _ ht
  | syncPush => exact k.actWrite h fun t ht => ht
  | syncPop b => exact k.actRead h fun v t ht => syncPopped_all b v ht
  | syncInit => exact h
  | countRead => exact h
  | countPop _ => exact h
  | retain _ => exact h
  | noteRate _ => exact h
  | guardResolved => exact h
  | guardConfigured => exact h
  | guardPrepare _ => exact h
  | guardSubmit => exact h
  | setConfigured _ => exact h
  | setCoord _ => exact h
  | ret _ => exact h
  | retFirst => exact h

/-- A register-only item keeps the property. -/
theorem Keeps.quiet (k : Keeps P) {mi : Micro} {s t : State} (h : P s) (e : quiet mi s = .act t) : P t := by
  cases mi <;> simp only [Sys2Proof.Machine.quiet, guardThat] at e
  case syncInit => cases e; exact k.traces _ _ rfl (k.sync _ _ h)
  case countRead => cases e; exact k.sync _ _ h
  case countPop => cases e; exact k.traces _ _ rfl (k.sync _ _ h)
  case retain => cases e; exact k.sync _ _ h
  case noteRate => cases e; exact k.clkRate _ _ _ h
  case setConfigured => cases e; exact k.configured _ _ h
  case setCoord => cases e; exact k.coord _ _ h
  case clearPoll =>
    split at e
    · cases e; exact k.timeouts _ _ h
    · cases e
  case prime | guardResolved | guardConfigured | guardPrepare | guardSubmit =>
    split at e
    · cases e; exact h
    · cases e
  all_goals cases e

/-- A command's end keeps the property. -/
theorem Keeps.endCommand (k : Keeps P) {s : State} (n : Nat) (c : Code) (h : P s) : P (endCommand n c s) :=
  k.ctrl _ _ rfl (k.result _ _ h)

/-- What the register-only items in front of a sequence lead to has the property. -/
def Ready.All (P : State → Prop) : Ready → Prop
  | .access s _ _ => P s
  | .ended s => P s
  | .fault _ => True
  | .idle => True

theorem Keeps.runQuiet (k : Keeps P) {n : Nat} {todo : List Micro} {s : State} (h : P s) : (runQuiet n todo s).All P := by
  induction todo generalizing s with
  | nil => trivial
  | cons mi rest ih =>
    unfold Sys2Proof.Machine.runQuiet
    split
    · trivial
    · exact k.endCommand _ _ h
    · exact k.endCommand _ _ h
    · next e =>
      injection e with e1 e2
      subst e1 e2
      split
      · next eq => exact ih (k.quiet h eq)
      · trivial
      · exact h

/-! ## Commands -/

/-- The other updates the commands of CTRL make: with them, every command of CTRL keeps the property. -/
structure KeepsCtrl (P : State → Prop) : Prop extends Keeps P where
  alloc : ∀ s virt phys size, allocOk s.params.maxBufferBytes phys size = true → P s →
    P (s.setCtx { s.ctx with region := ⟨virt, phys, size⟩, initDone := true })
  prep : ∀ s d x, x.cb = (d == s.params.callbackDir) → P s → P (s.setChan d (prepChannel (s.chan d) x))
  profile : ∀ s id, s.ctx.resolved = false → id.toNat < 3 → P s →
    P (s.setCtx { s.ctx with profile := profileBundle s.params id, resolved := true })
  geom : ∀ s g, P s → P (s.setCtx { s.ctx with geom := g, geomValid := true })

/-- The updates of the other agents' commands: with them, every command keeps the property. -/
structure KeepsAll (P : State → Prop) : Prop extends KeepsCtrl P where
  callback : ∀ s, completionPending s = true → P s → P (takeCompletion s)
  notify : ∀ s, P s → P (s.setCtx { s.ctx with notify := false })
  consIdx : ∀ s, P s → P (s.setCtx { s.ctx with consIdx := some s.ctx.bufIdx })
  cons : ∀ s c, c.stream = s.cons.stream → P s → P (s.setCons c)

theorem KeepsCtrl.access (k : KeepsCtrl P) {mi : Micro} {s : State} (h : P s) : (access mi s).All P :=
  k.toKeeps.access h (fun _ t v p z ht _ _ _ _ hp hok => k.alloc t v p z (hp ▸ hok) ht)
    (fun d _ t ht _ _ _ _ hp => k.prep t d _ (by rw [hp]; rfl) ht)

theorem KeepsCtrl.goOn (k : KeepsCtrl P) {n : Nat} {todo : List Micro} {s t : State} (h : P s)
    (e : goOn n todo s = .next t) : P t := by
  have hq := k.toKeeps.runQuiet (n := n) (todo := todo) h
  unfold Sys2Proof.Machine.goOn at e
  split at e
  · next eq => rw [eq] at hq; cases e; exact hq
  · cases e; exact k.ctrl _ _ rfl h

/-- One micro-operation of a sequence keeps the property. -/
theorem KeepsCtrl.microStep (k : KeepsCtrl P) {n : Nat} {todo : List Micro} {s t : State} (h : P s)
    (e : microStep n todo s = .next t) : P t := by
  have hq := k.toKeeps.runQuiet (n := n) (todo := todo) h
  unfold Sys2Proof.Machine.microStep at e
  split at e
  · next eq => rw [eq] at hq; cases e; exact hq
  · cases e
  · cases e; exact h
  · next s1 mi rest eq =>
    rw [eq] at hq
    have ha := k.access (mi := mi) (s := s1) hq
    split at e
    · next ea => rw [ea] at ha; exact k.goOn ha e
    · next ea => rw [ea] at ha; exact k.goOn ha e
    · cases e; exact h
    · cases e
    · cases e

theorem KeepsCtrl.runCommand (k : KeepsCtrl P) {n : Nat} {f : State → Begin} {s t : State} (h : P s)
    (hf : ∀ u todo, f s = .run u todo → P u) (e : runCommand n f s = .next t) : P t := by
  unfold Sys2Proof.Machine.runCommand at e
  split at e
  · split at e
    · next eq => exact k.microStep (hf _ _ eq) e
    · cases e
  · exact k.microStep h e

theorem profileIdOf_lt {p : Params} {b id : BitVec 8} (h : profileIdOf p b = some id) : id.toNat < 3 := by
  unfold profileIdOf at h
  split at h
  · cases h; assumption
  · split at h <;> cases h; decide

theorem KeepsCtrl.resolve (k : KeepsCtrl P) {b : BitVec 8} {s t : State} (h : P s) (e : resolveProfile b s = .ok t) : P t := by
  unfold resolveProfile at e
  split at e
  · cases e
  · next id hid =>
    split at e
    · split at e
      · cases e; exact h
      · cases e
    · next hr => cases e; exact k.profile _ _ (by simpa using hr) (profileIdOf_lt hid) h

/-- Every command of CTRL keeps the property. -/
theorem KeepsCtrl.exec (k : KeepsCtrl P) {i : Instr} {s t : State} (ha : cmdAgent i = .ctrl) (h : P s) (e : exec i s = .next t) :
    P t := by
  cases i with
  | regRead off =>
    refine k.runCommand h (fun u todo hu => ?_) e
    unfold beginRegRead beginRegister at hu; split at hu <;> cases hu; exact h
  | regWrite off v =>
    refine k.runCommand h (fun u todo hu => ?_) e
    unfold beginRegWrite beginRegister at hu; split at hu <;> cases hu; exact h
  | regUpdateBits off m v =>
    refine k.runCommand h (fun u todo hu => ?_) e
    unfold beginRegUpdateBits beginRegister at hu; split at hu <;> cases hu; exact h
  | resolve b =>
    refine k.runCommand h (fun u todo hu => ?_) e
    unfold beginResolve at hu
    split at hu
    · next hr => cases hu; exact k.resolve h hr
    · cases hu; exact h
    · cases hu
  | clearRegisters =>
    simp only [Sys2Proof.Machine.exec, execClearRegisters] at e
    refine k.runCommand h (fun u todo hu => ?_) e
    cases hu; exact h
  | configure =>
    simp only [Sys2Proof.Machine.exec, execConfigure] at e
    refine k.runCommand h (fun u todo hu => ?_) e
    cases hu; exact h
  | enable =>
    simp only [Sys2Proof.Machine.exec, execEnable] at e
    refine k.runCommand h (fun u todo hu => ?_) e
    cases hu; exact h
  | clearFifos tx rx =>
    simp only [Sys2Proof.Machine.exec, execClearFifos] at e
    refine k.runCommand h (fun u todo hu => ?_) e
    cases hu; exact h
  | primeTxFifo n =>
    simp only [Sys2Proof.Machine.exec, execPrimeTxFifo] at e
    refine k.runCommand h (fun u todo hu => ?_) e
    cases hu; exact h
  | syncFifos tx rx =>
    simp only [Sys2Proof.Machine.exec, execSyncFifos] at e
    refine k.runCommand h (fun u todo hu => ?_) e
    cases hu; exact h
  | dmaPrepare d =>
    simp only [Sys2Proof.Machine.exec, execDmaPrepare] at e
    refine k.runCommand h (fun u todo hu => ?_) e
    cases hu; exact h
  | dmaSubmit =>
    simp only [Sys2Proof.Machine.exec, execDmaSubmit] at e
    refine k.runCommand h (fun u todo hu => ?_) e
    cases hu; exact h
  | dmaTerminate =>
    simp only [Sys2Proof.Machine.exec, execDmaTerminate] at e
    refine k.runCommand h (fun u todo hu => ?_) e
    cases hu; exact k.ctrl _ _ rfl h
  | init b =>
    refine k.runCommand h (fun u todo hu => ?_) e
    unfold beginInit badState at hu
    split at hu
    · split at hu
      · next hr => cases hu; exact k.resolve h hr
      · cases hu; exact h
      · cases hu
    · cases hu
  | buffersSetup pf cc =>
    refine k.runCommand h (fun u todo hu => ?_) e
    unfold beginBuffers badState at hu
    split at hu
    · split at hu
      · cases hu; exact k.geom _ _ h
      · cases hu; exact h
    · cases hu
  | stop =>
    simp only [Sys2Proof.Machine.exec, execStop] at e
    refine k.runCommand h (fun u todo hu => ?_) e
    cases hu; exact h
  | start =>
    refine k.runCommand h (fun u todo hu => ?_) e
    unfold beginStart badState at hu
    split at hu
    · cases hu; exact k.coord _ _ h
    · cases hu
  | exit =>
    refine k.runCommand h (fun u todo hu => ?_) e
    unfold beginExit badState at hu
    split at hu
    · cases hu
    · cases hu; exact k.ctrl _ _ rfl h
  | periodCallback => cases ha
  | waitCompletion => cases ha
  | readBufIdx => cases ha

/-- Every command keeps the property. -/
theorem KeepsAll.exec (k : KeepsAll P) {i : Instr} {s t : State} (h : P s) (e : exec i s = .next t) : P t := by
  by_cases ha : cmdAgent i = .ctrl
  · exact k.toKeepsCtrl.exec ha h e
  cases i <;> first
    | exact absurd rfl ha
    | skip
  case periodCallback =>
    simp only [Sys2Proof.Machine.exec, execPeriodCallback] at e
    split at e
    · next hp => cases e; exact k.callback _ hp h
    · cases e; exact h
  case waitCompletion =>
    simp only [Sys2Proof.Machine.exec, execWaitCompletion] at e
    split at e
    · cases e; exact k.cons _ _ rfl (k.notify _ h)
    · cases e; exact h
  case readBufIdx =>
    simp only [Sys2Proof.Machine.exec, execReadBufIdx] at e
    cases e; exact k.cons _ _ rfl (k.consIdx _ h)

end Sys2Proof.Machine
end

