-- ==== Sys2Proof/Laws/LiftStep.lean ====
section
/-! SUPPORT. What one step of the machine can do to the state, said once: a property that each single update keeps is kept by every step. -/

namespace Sys2Proof.Machine

/-- The updates the other agents make: with them, every step keeps the property. -/
structure KeepsStep (P : State → Prop) : Prop extends KeepsAll P where
  moved : ∀ s i, P s → P (s.setInputs i)
  pcm : ∀ s, P s → P (pcmClock s)
  slot : ∀ s, P s → P (slotEffect s)
  beatRx : ∀ s x e rest, s.fifo.rx = e :: rest → s.dmaRx.desc = some x → inRegion s (beatAddr x s.dmaRx) 4 = true → P s →
    P (((s.setFifo { s.fifo with rx := rest }).setMem (memWrite s.mem (beatAddr x s.dmaRx).toNat 4 e.word)).setDmaRx
      (advanceChannel s.params x s.dmaRx))
  beatTx : ∀ s x, s.fifo.tx.length < s.params.fifoDepth → s.dmaTx.desc = some x →
    inRegion s (beatAddr x s.dmaTx) 4 = true → P s →
    P ((s.setFifo { s.fifo with tx := s.fifo.tx ++ [memWord s.mem (beatAddr x s.dmaTx).toNat] }).setDmaTx
      (advanceChannel s.params x s.dmaTx))
  quiesce : ∀ s d, (s.chan d).phase = .stopping → P s → P (quiesceStep d s)
  envError : ∀ s d, (s.chan d).phase = .running → P s → P (envErrorStep d s)
  envTxw : ∀ s, P s → P (envTxwStep s)
  envRxr : ∀ s, P s → P (envRxrStep s)
  store : ∀ s a n v, inRegion s a (sizeBytes n) = true → P s → P (s.setMem (memWrite s.mem a.toNat (sizeBytes n) v))

variable {P : State → Prop}

/-- Every agent's step keeps the property. -/
theorem KeepsStep.agentStep (k : KeepsStep P) {mv : Move} {s t : State} (h : P s) (e : agentStep mv s = .next t) : P t := by
  cases mv with
  | ctrl =>
    simp only [Sys2Proof.Machine.agentStep, ctrlStep] at e
    split at e
    · cases e; exact h
    · split at e
      · exact k.toKeepsAll.exec h e
      · cases e
  | cons =>
    simp only [Sys2Proof.Machine.agentStep, consStep] at e
    split at e
    · cases e; exact h
    · split at e
      · exact k.toKeepsAll.exec h e
      · cases e
  | consData acc =>
    simp only [Sys2Proof.Machine.agentStep, consData] at e
    split at e
    · split at e
      · split at e
        · next hr =>
          cases acc with
          | read a n => cases e; exact h
          | write a n v => cases e; exact k.store s a n v hr h
        · cases e
      · cases e
    · cases e
  | irq =>
    simp only [Sys2Proof.Machine.agentStep] at e
    split at e
    · exact k.toKeepsAll.exec h e
    · cases e; exact h
  | pcmClock =>
    simp only [Sys2Proof.Machine.agentStep] at e
    split at e <;> cases e
    · exact k.pcm s h
    · exact h
  | slot =>
    simp only [Sys2Proof.Machine.agentStep, slotStep] at e
    split at e
    · split at e <;> cases e
      exact k.slot s h
    · cases e; exact h
  | beat d =>
    simp only [Sys2Proof.Machine.agentStep, beatStep] at e
    split at e
    · next hb =>
      split at e
      · cases e; exact h
      · next x hx =>
        cases d with
        | rx =>
          simp only [Sys2Proof.Machine.beatRx] at e
          split at e
          · cases e; exact h
          · next y rest hy =>
            split at e <;> cases e
            next hr => exact k.beatRx s x y rest hy hx hr h
        | tx =>
          simp only [Sys2Proof.Machine.beatTx] at e
          split at e <;> cases e
          next hr =>
          refine k.beatTx s x ?_ hx hr h
          simp only [beatEnabled, Bool.and_eq_true, decide_eq_true_eq] at hb
          omega
    · cases e; exact h
  | quiesce d =>
    simp only [Sys2Proof.Machine.agentStep] at e
    split at e <;> cases e
    · next hp => exact k.quiesce s d (by simpa using hp) h
    · exact h
  | envError d =>
    simp only [Sys2Proof.Machine.agentStep] at e
    split at e <;> cases e
    · next hp => exact k.envError s d (by simpa using hp) h
    · exact h
  | envTxw =>
    simp only [Sys2Proof.Machine.agentStep] at e
    split at e <;> cases e
    · exact k.envTxw s h
    · exact h
  | envRxr =>
    simp only [Sys2Proof.Machine.agentStep] at e
    split at e <;> cases e
    · exact k.envRxr s h
    · exact h
  | hostRead r =>
    simp only [Sys2Proof.Machine.agentStep, hostStep] at e
    split at e <;> cases e
    exact h

/-- A step that answers a next state is the step of the agent that moves. -/
theorem step_next {s t : State} (e : step s = .next t) :
    agentStep (moveOf s.inputs).1 (s.setInputs (moveOf s.inputs).2) = .next t := by
  unfold Sys2Proof.Machine.step at e
  split at e
  · cases e
  · split at e
    · cases e
    · split at e
      · cases e
      · exact e

/-- Every step keeps the property. -/
theorem KeepsStep.step (k : KeepsStep P) {s t : State} (h : P s) (e : step s = .next t) : P t :=
  k.agentStep (k.moved _ _ h) (step_next e)

end Sys2Proof.Machine
end

