-- ==== Sys2Proof/Laws/Memory.lean ====
section
/-! SUPPORT. Memory (R100): a write is read back, leaves every other byte alone, and keeps the canonical form. -/

namespace Sys2Proof.Machine

/-- An address below every listed one reads as an unlisted byte. -/
theorem memByte_below {m : Mem} {a : Nat} (h : m.all (fun e => decide (a < e.1)) = true) : memByte m a = memUnlisted a := by
  induction m with
  | nil => rfl
  | cons e rest ih =>
    obtain ⟨k, c⟩ := e
    simp only [List.all_cons, Bool.and_eq_true, decide_eq_true_eq] at h
    rw [memByte, if_neg (by omega), ih h.2]

/-- What the canonical form says of a list's head. -/
theorem Memory.wf_cons {k : Nat} {c : Byte} {rest : Mem} :
    Memory.wf ((k, c) :: rest) = true ↔
      c ≠ memUnlisted k ∧ rest.all (fun e => decide (k < e.1)) = true ∧ Memory.wf rest = true := by
  simp [Memory.wf, and_assoc]

theorem memPut_above {m : Mem} {k a : Nat} {b : Byte} (ha : k < a) (h : m.all (fun e => decide (k < e.1)) = true) :
    (memPut m a b).all (fun e => decide (k < e.1)) = true := by
  induction m with
  | nil => simp only [memPut]; split <;> simp [ha]
  | cons e rest ih =>
    obtain ⟨j, c⟩ := e
    simp only [List.all_cons, Bool.and_eq_true, decide_eq_true_eq] at h
    simp only [memPut]
    split
    · split <;> simp [h, ha]
    · split
      · split <;> simp [ha] <;> simpa using h.2
      · simp only [List.all_cons, Bool.and_eq_true, decide_eq_true_eq]; exact ⟨h.1, ih h.2⟩

/-- Writing a byte keeps the canonical form. -/
theorem memPut_wf {m : Mem} (h : Memory.wf m = true) (a : Nat) (b : Byte) : Memory.wf (memPut m a b) = true := by
  induction m with
  | nil =>
    simp only [memPut]; split
    · rfl
    · next hb => exact Memory.wf_cons.mpr ⟨hb, rfl, rfl⟩
  | cons e rest ih =>
    obtain ⟨k, c⟩ := e
    obtain ⟨hc, hk, hr⟩ := Memory.wf_cons.mp h
    simp only [memPut]
    split
    · next hlt =>
      split
      · exact h
      · next hb =>
        refine Memory.wf_cons.mpr ⟨hb, ?_, h⟩
        simp only [List.all_cons, Bool.and_eq_true, decide_eq_true_eq]
        refine ⟨hlt, List.all_eq_true.mpr fun e he => ?_⟩
        have := List.all_eq_true.mp hk e he
        simp only [decide_eq_true_eq] at this ⊢
        omega
    · split
      · next heq =>
        subst heq
        split
        · exact hr
        · next hb => exact Memory.wf_cons.mpr ⟨hb, hk, hr⟩
      · exact Memory.wf_cons.mpr ⟨hc, memPut_above (by omega) hk, ih hr⟩

/-- A byte written is read back, and no other byte changes. -/
theorem memByte_memPut {m : Mem} (h : Memory.wf m = true) (a : Nat) (b : Byte) (x : Nat) :
    memByte (memPut m a b) x = if x = a then b else memByte m x := by
  induction m with
  | nil =>
    simp only [memPut]
    split
    · next hb => simp only [memByte]; split <;> simp_all
    · simp only [memByte, eq_comm]
  | cons e rest ih =>
    obtain ⟨k, c⟩ := e
    obtain ⟨-, hk, hr⟩ := Memory.wf_cons.mp h
    have below : ∀ y, y < k → memByte ((k, c) :: rest) y = memUnlisted y := fun y hy => by
      rw [memByte, if_neg (by omega)]
      refine memByte_below (List.all_eq_true.mpr fun e he => ?_)
      have := List.all_eq_true.mp hk e he
      simp only [decide_eq_true_eq] at this ⊢
      omega
    simp only [memPut]
    split
    · next hlt =>
      split
      · next hb => split
                   · next hx => subst hx; rw [below _ hlt, hb]
                   · rfl
      · rw [memByte]; simp only [eq_comm]
    · split
      · next heq =>
        subst heq
        split
        · next hb =>
          split
          · next hx => subst hx; rw [memByte_below hk, hb]
          · next hx => rw [memByte, if_neg (Ne.symm hx)]
        · simp only [memByte]
          by_cases hx : a = x
          · simp [hx]
          · simp [hx, Ne.symm hx]
      · next hne =>
        simp only [memByte]
        by_cases hx : k = x
        · subst hx; simp [Ne.symm hne]
        · simp [hx, ih hr]

/-- Writing bytes keeps the canonical form. -/
theorem memPutBytes_wf {m : Mem} (h : Memory.wf m = true) (a : Nat) (bs : List Byte) : Memory.wf (memPutBytes m a bs) = true := by
  induction bs generalizing m a with
  | nil => exact h
  | cons b bs ih => exact ih (memPut_wf h a b) (a + 1)

/-- Bytes written are read back, and no other byte changes. -/
theorem memByte_memPutBytes {m : Mem} (h : Memory.wf m = true) (a : Nat) (bs : List Byte) (x : Nat) :
    memByte (memPutBytes m a bs) x = if a ≤ x ∧ x < a + bs.length then bs.getD (x - a) 0#8 else memByte m x := by
  induction bs generalizing m a with
  | nil => simp [memPutBytes]
  | cons b bs ih =>
    rw [memPutBytes, ih (memPut_wf h a b), memByte_memPut h]
    by_cases hx : x = a
    · subst hx; simp
    · by_cases hr : a + 1 ≤ x ∧ x < a + 1 + bs.length
      · have h2 : a ≤ x ∧ x < a + (b :: bs).length := by simp; omega
        rw [if_pos hr, if_pos h2, show x - a = (x - (a + 1)) + 1 by omega, List.getD_cons_succ]
      · have h2 : ¬(a ≤ x ∧ x < a + (b :: bs).length) := by simp; omega
        rw [if_neg hr, if_neg h2, if_neg hx]

@[simp] theorem lowBytes_length (n : Nat) (v : Word) : (lowBytes n v).length = n := by simp [lowBytes]

/-- A store keeps the canonical form. -/
theorem memWrite_wf {m : Mem} (h : Memory.wf m = true) (a n : Nat) (v : Word) : Memory.wf (memWrite m a n v) = true :=
  memPutBytes_wf h a _

/-- The bytes of a store: little-endian from its address on, every other byte unchanged (R100). -/
theorem memByte_memWrite {m : Mem} (h : Memory.wf m = true) (a n : Nat) (v : Word) (x : Nat) :
    memByte (memWrite m a n v) x = if a ≤ x ∧ x < a + n then byteOf v (x - a) else memByte m x := by
  rw [memWrite, memByte_memPutBytes h, lowBytes_length]
  by_cases hx : a ≤ x ∧ x < a + n
  · rw [if_pos hx, if_pos hx]
    have : x - a < n := by omega
    simp [lowBytes, List.getD, this]
  · rw [if_neg hx, if_neg hx]

/-- The four bytes of a word make the word. -/
theorem wordOfBytes_byteOf (v : Word) : wordOfBytes (byteOf v 0) (byteOf v 1) (byteOf v 2) (byteOf v 3) = v := by
  apply BitVec.eq_of_getLsbD_eq
  intro i hi
  simp only [wordOfBytes, byteOf, BitVec.getLsbD_append, BitVec.getLsbD_extractLsb']
  by_cases h1 : i < 8
  · simp [h1, show i < 16 by omega]
  · by_cases h2 : i < 16
    · simp [h1, h2, show i - 8 < 8 by omega, show 8 + (i - 8) = i by omega]
    · by_cases h3 : i - 16 < 8
      · simp [h2, h3, show 16 + (i - 16) = i by omega]
      · simp [h2, h3, show i - 16 - 8 < 8 by omega, show 24 + (i - 16 - 8) = i by omega]

/-- A word stored is read back (R100). -/
theorem memWord_memWrite {m : Mem} (h : Memory.wf m = true) (a : Nat) (v : Word) : memWord (memWrite m a 4 v) a = v := by
  simp only [memWord, memByte_memWrite h]
  have e0 : a - a = 0 := by omega
  have e1 : a + 1 - a = 1 := by omega
  have e2 : a + 2 - a = 2 := by omega
  have e3 : a + 3 - a = 3 := by omega
  rw [if_pos (by omega), if_pos (by omega), if_pos (by omega), if_pos (by omega), e0, e1, e2, e3]
  exact wordOfBytes_byteOf v

/-- The memory right after reset is in the canonical form. -/
theorem reset_mem_wf : Memory.wf State.reset.mem = true := rfl

end Sys2Proof.Machine
end

