-- ==== Sys2Proof/Laws/PerInstr.lean ====
section
/-! SUPPORT. A statement about every command as syntax: its encoding is one command word and its operand words, three words at most
(R140, R146). -/

namespace Sys2Proof.Laws.EncodedLength

/-- The command's words are one command word and as many operand words as its opcode takes, at most two (R140, R145, R146). -/
def Statement (i : Instr) : Prop := (encode i).length = 1 + operandWords i ∧ (encode i).length ≤ 3

theorem regRead (off : BitVec 8) : Statement (.regRead off) := ⟨rfl, Nat.le_of_ble_eq_true rfl⟩

theorem regWrite (off : BitVec 8) (v : Word) : Statement (.regWrite off v) := ⟨rfl, Nat.le_of_ble_eq_true rfl⟩

theorem regUpdateBits (off : BitVec 8) (m v : Word) : Statement (.regUpdateBits off m v) := ⟨rfl, Nat.le_of_ble_eq_true rfl⟩

theorem resolve (p : BitVec 8) : Statement (.resolve p) := ⟨rfl, Nat.le_of_ble_eq_true rfl⟩

theorem clearRegisters : Statement .clearRegisters := ⟨rfl, by decide⟩

theorem configure : Statement .configure := ⟨rfl, by decide⟩

theorem enable : Statement .enable := ⟨rfl, by decide⟩

theorem clearFifos (tx rx : Bool) : Statement (.clearFifos tx rx) := ⟨rfl, Nat.le_of_ble_eq_true rfl⟩

theorem primeTxFifo (n : BitVec 16) : Statement (.primeTxFifo n) := ⟨rfl, Nat.le_of_ble_eq_true rfl⟩

theorem syncFifos (tx rx : Bool) : Statement (.syncFifos tx rx) := ⟨rfl, Nat.le_of_ble_eq_true rfl⟩

theorem dmaPrepare (d : Dir) : Statement (.dmaPrepare d) := ⟨rfl, Nat.le_of_ble_eq_true rfl⟩

theorem dmaSubmit : Statement .dmaSubmit := ⟨rfl, by decide⟩

theorem dmaTerminate : Statement .dmaTerminate := ⟨rfl, by decide⟩

theorem periodCallback : Statement .periodCallback := ⟨rfl, by decide⟩

theorem init (p : BitVec 8) : Statement (.init p) := ⟨rfl, Nat.le_of_ble_eq_true rfl⟩

theorem buffersSetup (pf cc : Word) : Statement (.buffersSetup pf cc) := ⟨rfl, Nat.le_of_ble_eq_true rfl⟩

theorem stop : Statement .stop := ⟨rfl, by decide⟩

theorem start : Statement .start := ⟨rfl, by decide⟩

theorem exit : Statement .exit := ⟨rfl, by decide⟩

theorem waitCompletion : Statement .waitCompletion := ⟨rfl, by decide⟩

theorem readBufIdx : Statement .readBufIdx := ⟨rfl, by decide⟩

end Sys2Proof.Laws.EncodedLength
end

