-- ==== Sys2Proof/Laws/Registers.lean ====
section
/-! SUPPORT. Register words of the default layout: the bits of a CS_A read, what a CS_A write stores, and `UpdateBits` as both
(R51, R182, R185, R186). -/

namespace Sys2Proof.Machine

/-! ## Bit fields -/

theorem fieldBit_getElem (f : Field) (b : Bool) (i : Nat) (hi : i < 32) : (fieldBit f b)[i] = (decide (i = f.lo) && b) := by
  rw [← BitVec.getLsbD_eq_getElem]
  unfold fieldBit
  rw [BitVec.getLsbD_shiftLeft, BitVec.getLsbD_setWidth]
  by_cases h : i = f.lo
  · subst h; simp [hi]
  · by_cases h2 : f.lo ≤ i
    · have : i - f.lo ≠ 0 := by omega
      simp [h, this, BitVec.getLsbD_ofBool]
    · simp [h]; intro; omega

/-- The bits an `UpdateBits` writes: the mask chooses between the value and the word read (R182). -/
theorem updated_getLsbD (old mask val : Word) (i : Nat) :
    (updated old mask val).getLsbD i = if mask.getLsbD i then val.getLsbD i else old.getLsbD i := by
  by_cases hi : i < 32
  · simp only [updated, BitVec.getLsbD_or, BitVec.getLsbD_and, BitVec.getLsbD_not, hi]
    cases mask.getLsbD i <;> simp
  · have h : ∀ w : Word, w.getLsbD i = false := fun w => BitVec.getLsbD_of_ge w i (by omega)
    simp [h]

/-- `UpdateBits` writes nothing exactly if the value agrees with the word read under the mask (R182). -/
theorem updated_eq_iff (old mask val : Word) :
    updated old mask val = old ↔ ∀ i, i < 32 → mask.getLsbD i = true → val.getLsbD i = old.getLsbD i := by
  constructor
  · intro h i _ hm
    have := congrArg (fun w => BitVec.getLsbD w i) h
    simpa [updated_getLsbD, hm] using this
  · intro h
    apply BitVec.eq_of_getLsbD_eq
    intro i hi
    rw [updated_getLsbD]
    split
    · exact h i hi ‹_›
    · rfl

/-! ## CS_A (R51, R185, R186) -/

/-- The bits of a CS_A read that are not fields are the draw's (R185). -/
theorem csValue_open {s : State} (h : s.params.regmap = bcm2835) (d : Word) :
    ∀ b ∈ [10, 11, 12, 13, 14, 26, 27, 28, 29, 30, 31], (csValue s d).getLsbD b = d.getLsbD b := by
  simp [csValue, h, bcm2835, bcmCs, fieldBit_getElem, fieldPut, csKnown, fieldMask]

/-- The stored one-bit fields of a CS_A read (R185). -/
theorem csValue_stored {s : State} (h : s.params.regmap = bcm2835) (d : Word) :
    (csValue s d).getLsbD 0 = s.pr.cs.en ∧ (csValue s d).getLsbD 1 = s.pr.cs.rxon ∧ (csValue s d).getLsbD 2 = s.pr.cs.txon ∧
      (csValue s d).getLsbD 3 = false ∧ (csValue s d).getLsbD 4 = false ∧ (csValue s d).getLsbD 9 = s.pr.cs.dmaen ∧
      (csValue s d).getLsbD 15 = s.pr.cs.txerr ∧ (csValue s d).getLsbD 16 = s.pr.cs.rxerr ∧
      (csValue s d).getLsbD 23 = s.pr.cs.rxsex ∧ (csValue s d).getLsbD 24 = s.pipe.syncR ∧
      (csValue s d).getLsbD 25 = s.pr.cs.stby := by
  simp [csValue, h, bcm2835, bcmCs, fieldBit_getElem, fieldPut, csKnown, fieldMask]

/-- The computed flags of a CS_A read (R185). -/
theorem csValue_flags {s : State} (h : s.params.regmap = bcm2835) (d : Word) :
    (csValue s d).getLsbD 17 = flagTxw s ∧ (csValue s d).getLsbD 18 = flagRxr s ∧ (csValue s d).getLsbD 19 = flagTxd s ∧
      (csValue s d).getLsbD 20 = flagRxd s ∧ (csValue s d).getLsbD 21 = flagTxe s ∧ (csValue s d).getLsbD 22 = flagRxf s := by
  simp [csValue, h, bcm2835, bcmCs, fieldBit_getElem, fieldPut, csKnown, fieldMask]

/-- The threshold fields of a CS_A read, bit by bit (R185). -/
theorem csValue_threshold_bits {s : State} (h : s.params.regmap = bcm2835) (d : Word) :
    (csValue s d).getLsbD 5 = s.pr.cs.txthr.getLsbD 0 ∧ (csValue s d).getLsbD 6 = s.pr.cs.txthr.getLsbD 1 ∧
      (csValue s d).getLsbD 7 = s.pr.cs.rxthr.getLsbD 0 ∧ (csValue s d).getLsbD 8 = s.pr.cs.rxthr.getLsbD 1 := by
  simp [csValue, h, bcm2835, bcmCs, fieldBit_getElem, fieldPut, csKnown, fieldMask]

/-- A two-bit field of a word from its two bits. -/
theorem two_bits_eq {w : Word} {x : BitVec 2} {lo : Nat} (h0 : w.getLsbD lo = x.getLsbD 0) (h1 : w.getLsbD (lo + 1) = x.getLsbD 1) :
    w.extractLsb' lo 2 = x := by
  apply BitVec.eq_of_getLsbD_eq
  intro i hi
  obtain rfl | rfl : i = 0 ∨ i = 1 := by omega
  · simpa using h0
  · simpa using h1

/-- The threshold fields of a CS_A read (R185). -/
theorem csValue_thresholds {s : State} (h : s.params.regmap = bcm2835) (d : Word) :
    (csValue s d).extractLsb' 5 2 = s.pr.cs.txthr ∧ (csValue s d).extractLsb' 7 2 = s.pr.cs.rxthr := by
  obtain ⟨h5, h6, h7, h8⟩ := csValue_threshold_bits h d
  exact ⟨two_bits_eq h5 h6, two_bits_eq h7 h8⟩

/-- A field of two bits taken from a word. -/
theorem fieldGet_two (lo : Nat) (v : Word) : (fieldGet ⟨lo, 2⟩ v).setWidth 2 = v.extractLsb' lo 2 := by
  apply BitVec.eq_of_getLsbD_eq
  intro i hi
  obtain rfl | rfl : i = 0 ∨ i = 1 := by omega
  all_goals simp [fieldGet]

/-- What a CS_A write stores (R186, R75, R76). -/
theorem writeCs_fields {s : State} (h : s.params.regmap = bcm2835) (v : Word) :
    writeCs v s =
      (s.setPr { s.pr with
        cs := ⟨v.getLsbD 0, v.getLsbD 1, v.getLsbD 2, v.extractLsb' 5 2, v.extractLsb' 7 2, v.getLsbD 9,
          s.pr.cs.txerr && !v.getLsbD 15, s.pr.cs.rxerr && !v.getLsbD 16, v.getLsbD 23, v.getLsbD 25⟩ }).setPipe
        { s.pipe with
          clrTx := if v.getLsbD 3 && s.pipe.clrTx == .none then .zero else s.pipe.clrTx
          clrRx := if v.getLsbD 4 && s.pipe.clrRx == .none then .zero else s.pipe.clrRx
          syncW := v.getLsbD 24
          syncCnt := if v.getLsbD 24 == s.pipe.syncW then s.pipe.syncCnt else 0 } := by
  unfold writeCs
  simp only [h, bcm2835, bcmCs, fieldTest, fieldGet_two]

/-- The `UpdateBits` pick of one bit: the mask chooses between the value and the field (R182). -/
def pick (mask val : Word) (i : Nat) (b : Bool) : Bool := if mask.getLsbD i then val.getLsbD i else b

/-- The pick of a two-bit field. -/
def pick2 (mask val : Word) (lo : Nat) (x : BitVec 2) : BitVec 2 :=
  (x &&& ~~~ mask.extractLsb' lo 2) ||| (val.extractLsb' lo 2 &&& mask.extractLsb' lo 2)

theorem updated_extract (old mask val : Word) (lo : Nat) :
    (updated old mask val).extractLsb' lo 2 = pick2 mask val lo (old.extractLsb' lo 2) := by
  apply BitVec.eq_of_getLsbD_eq
  intro i hi
  have e : ∀ w : Word, (w.extractLsb' lo 2).getLsbD i = w.getLsbD (lo + i) := fun w => by simp [hi]
  rw [e, updated_getLsbD]
  simp only [pick2, BitVec.getLsbD_or, BitVec.getLsbD_and, BitVec.getLsbD_not, e, hi]
  cases mask.getLsbD (lo + i) <;> simp

/-- CS_A after an `UpdateBits` that writes: each field as the mask picks it, and error flags read as 1 cleared by the write back (R182, R463). -/
def csPicked (mask val : Word) (s : State) : CsA where
  en := pick mask val 0 s.pr.cs.en
  rxon := pick mask val 1 s.pr.cs.rxon
  txon := pick mask val 2 s.pr.cs.txon
  txthr := pick2 mask val 5 s.pr.cs.txthr
  rxthr := pick2 mask val 7 s.pr.cs.rxthr
  dmaen := pick mask val 9 s.pr.cs.dmaen
  txerr := s.pr.cs.txerr && !pick mask val 15 s.pr.cs.txerr
  rxerr := s.pr.cs.rxerr && !pick mask val 16 s.pr.cs.rxerr
  rxsex := pick mask val 23 s.pr.cs.rxsex
  stby := pick mask val 25 s.pr.cs.stby

/-- The pipelines after an `UpdateBits` of CS_A that writes (R182, R75, R76). -/
def pipePicked (mask val : Word) (p : Pipe) : Pipe :=
  { p with
    clrTx := if pick mask val 3 false && p.clrTx == .none then .zero else p.clrTx
    clrRx := if pick mask val 4 false && p.clrRx == .none then .zero else p.clrRx
    syncW := pick mask val 24 p.syncR
    syncCnt := if p.syncW = pick mask val 24 p.syncR then p.syncCnt else 0 }

theorem pick2_keep {mask : Word} {lo : Nat} (h : mask.extractLsb' lo 2 = 0#2) (val : Word) (x : BitVec 2) :
    pick2 mask val lo x = x := by
  have b : ∀ y : BitVec 2, y &&& 3#2 = y := by decide
  simp [pick2, h, b]

theorem pick2_take {mask : Word} {lo : Nat} (h : mask.extractLsb' lo 2 = 3#2) (val : Word) (x : BitVec 2) :
    pick2 mask val lo x = val.extractLsb' lo 2 := by
  have a : ~~~(3#2) = 0#2 := by decide
  have b : ∀ y : BitVec 2, y &&& 3#2 = y := by decide
  simp [pick2, h, a, b]

/-- An `UpdateBits` of CS_A that names neither a clear nor SYNC writes SYNC back as it was read (R182, R75). -/
theorem pipePicked_keep {mask : Word} (h3 : mask.getLsbD 3 = false) (h4 : mask.getLsbD 4 = false) (h24 : mask.getLsbD 24 = false)
    (val : Word) (p : Pipe) : pipePicked mask val p = echoBack p := by
  unfold pipePicked pick echoBack
  rw [h3, h4, h24]
  rfl

/-- The value of an `UpdateBits` of CS_A agrees with CS_A under a mask of fields a write can set (R182). -/
def csSame (mask val : Word) (s : State) : Prop :=
  (mask.getLsbD 0 = true → val.getLsbD 0 = s.pr.cs.en) ∧ (mask.getLsbD 1 = true → val.getLsbD 1 = s.pr.cs.rxon) ∧
    (mask.getLsbD 2 = true → val.getLsbD 2 = s.pr.cs.txon) ∧ (mask.getLsbD 3 = true → val.getLsbD 3 = false) ∧
    (mask.getLsbD 4 = true → val.getLsbD 4 = false) ∧ (mask.getLsbD 5 = true → val.getLsbD 5 = s.pr.cs.txthr.getLsbD 0) ∧
    (mask.getLsbD 6 = true → val.getLsbD 6 = s.pr.cs.txthr.getLsbD 1) ∧
    (mask.getLsbD 7 = true → val.getLsbD 7 = s.pr.cs.rxthr.getLsbD 0) ∧
    (mask.getLsbD 8 = true → val.getLsbD 8 = s.pr.cs.rxthr.getLsbD 1) ∧
    (mask.getLsbD 9 = true → val.getLsbD 9 = s.pr.cs.dmaen) ∧ (mask.getLsbD 24 = true → val.getLsbD 24 = s.pipe.syncR) ∧
    (mask.getLsbD 25 = true → val.getLsbD 25 = s.pr.cs.stby)

/-- The write half of `UpdateBits` on CS_A finds nothing changed exactly if the masked fields agree (R182). -/
theorem csUpdated_eq_iff {s : State} (h : s.params.regmap = bcm2835) (d : Word) {mask : Word} (val : Word)
    (hk : mask &&& ~~~0x030003FF#32 = 0#32) : updated (csValue s d) mask val = csValue s d ↔ csSame mask val s := by
  obtain ⟨h0, h1, h2, h3, h4, h9, -, -, -, h24, h25⟩ := csValue_stored h d
  obtain ⟨h5, h6, h7, h8⟩ := csValue_threshold_bits h d
  rw [updated_eq_iff]
  constructor
  · intro k
    exact ⟨fun e => h0 ▸ k 0 (by omega) e, fun e => h1 ▸ k 1 (by omega) e, fun e => h2 ▸ k 2 (by omega) e,
      fun e => h3 ▸ k 3 (by omega) e, fun e => h4 ▸ k 4 (by omega) e, fun e => h5 ▸ k 5 (by omega) e,
      fun e => h6 ▸ k 6 (by omega) e, fun e => h7 ▸ k 7 (by omega) e, fun e => h8 ▸ k 8 (by omega) e,
      fun e => h9 ▸ k 9 (by omega) e, fun e => h24 ▸ k 24 (by omega) e, fun e => h25 ▸ k 25 (by omega) e⟩
  · rintro ⟨k0, k1, k2, k3, k4, k5, k6, k7, k8, k9, k24, k25⟩ i hi e
    have hz : (0x030003FF#32).getLsbD i = true := by
      have := congrArg (fun w => BitVec.getLsbD w i) hk
      simp only [BitVec.getLsbD_and, BitVec.getLsbD_not, e, hi, decide_true, Bool.true_and] at this
      simpa using this
    have : i = 0 ∨ i = 1 ∨ i = 2 ∨ i = 3 ∨ i = 4 ∨ i = 5 ∨ i = 6 ∨ i = 7 ∨ i = 8 ∨ i = 9 ∨ i = 24 ∨ i = 25 := by
      have hall : ∀ j < 32, (0x030003FF#32).getLsbD j = true →
          j = 0 ∨ j = 1 ∨ j = 2 ∨ j = 3 ∨ j = 4 ∨ j = 5 ∨ j = 6 ∨ j = 7 ∨ j = 8 ∨ j = 9 ∨ j = 24 ∨ j = 25 := by decide
      exact hall i hi hz
    rcases this with rfl | rfl | rfl | rfl | rfl | rfl | rfl | rfl | rfl | rfl | rfl | rfl
    · rw [h0]; exact k0 e
    · rw [h1]; exact k1 e
    · rw [h2]; exact k2 e
    · rw [h3]; exact k3 e
    · rw [h4]; exact k4 e
    · rw [h5]; exact k5 e
    · rw [h6]; exact k6 e
    · rw [h7]; exact k7 e
    · rw [h8]; exact k8 e
    · rw [h9]; exact k9 e
    · rw [h24]; exact k24 e
    · rw [h25]; exact k25 e

/-- The write half of `UpdateBits` on CS_A writes this, the register as its read half left it (R182). -/
theorem writeCs_updated {s u : State} (h : s.params.regmap = bcm2835) (hp : u.params = s.params) (hc : u.pr.cs = s.pr.cs)
    (hi : u.pipe = s.pipe) (d mask val : Word) :
    writeCs (updated (csValue s d) mask val) u =
      (u.setPr { u.pr with cs := csPicked mask val u }).setPipe (pipePicked mask val u.pipe) := by
  obtain ⟨h0, h1, h2, h3, h4, h9, h15, h16, h23, h24, h25⟩ := csValue_stored h d
  obtain ⟨t1, t2⟩ := csValue_thresholds h d
  rw [writeCs_fields (hp ▸ h)]
  simp only [updated_getLsbD, updated_extract, h0, h1, h2, h3, h4, h9, h15, h16, h23, h24, h25, t1, t2, ← hc, ← hi]
  simp only [csPicked, pipePicked, pick, beq_iff_eq, eq_comm (b := u.pipe.syncW)]
  rfl

/-! ## The register space (R101) -/

/-- The register at `P_BASE + off` is the one at offset `off`. -/
theorem regAtCpu_base (p : Params) (off : Word) : regAtCpu p (p.base + off) = regAt p.regmap off := by
  have h : ∀ r, (regCpuAddr p r == p.base + off) = (regOffset p.regmap r == off) := fun r => by
    rw [Bool.eq_iff_iff, beq_iff_eq, beq_iff_eq]
    exact BitVec.add_right_inj p.base
  simp only [regAtCpu, regAt, h]

/-- How a register command begins, on the register of its offset (R184). -/
theorem beginRegister_eq (off : BitVec 8) (todo : Reg → List Micro) (s : State) :
    beginRegister off todo s =
      match regAt s.params.regmap (off.setWidth 32) with
      | some r => .run s (todo r)
      | none => .fault (.badOffset (ctrlSite s) (off.setWidth 32)) := by
  unfold beginRegister
  rw [regAtCpu_base] <;> rfl

/-! ## The primitives, where no bus access fails (R11, R192) -/

theorem regRead_reliable {s : State} (h : BusReliable s) (r : Reg) : regRead r s = readOnBus r s := by
  have h' : s.params.busMayFail = false := h
  simp [regRead, busOk, afterBus, h']

theorem regWrite_reliable {s : State} (h : BusReliable s) (r : Reg) (v : Word) : regWrite r v s = writeOnBus r v s := by
  have h' : s.params.busMayFail = false := h
  simp [regWrite, busOk, afterBus, h']

/-! ## `UpdateBits` of CS_A, its two accesses (R12, R182) -/

/-- CS_A and the pipelines after `UpdateBits(CS_A, mask, val)` (R182). -/
def csUpdate (mask val : Word) (s : State) : State :=
  (s.setPr { s.pr with cs := csPicked mask val s }).setPipe (pipePicked mask val s.pipe)

/-- The read half. -/
theorem access_csRead {s : State} (hb : BusReliable s) (mask val : Word) :
    access (.updRead .csA mask val) s =
      .done (s.setInputs (drawOf s.inputs).2) [.updWrite .csA (csValue s (drawOf s.inputs).1) mask val] := by
  simp [access, actRead, regRead_reliable hb, readOnBus]

/-- The write half where nothing changes: no access of the register. -/
theorem access_csWrite_same {s u : State} (hl : DefaultLayout s) (d : Word) {mask val : Word}
    (hk : mask &&& ~~~0x030003FF#32 = 0#32) (hs : csSame mask val s) (ha : u.params.updateAlwaysWrites = false) :
    access (.updWrite .csA (csValue s d) mask val) u = .done u [] := by
  have h := (csUpdated_eq_iff hl d val hk).2 hs
  simp [access, h, ha]

/-- The write half where something changes, or every update writes. -/
theorem access_csWrite {s u : State} (hl : DefaultLayout s) (hb : BusReliable u) (hp : u.params = s.params)
    (hc : u.pr.cs = s.pr.cs) (hi : u.pipe = s.pipe) (d : Word) {mask val : Word} (hk : mask &&& ~~~0x030003FF#32 = 0#32)
    (hs : ¬csSame mask val s ∨ u.params.updateAlwaysWrites = true) :
    access (.updWrite .csA (csValue s d) mask val) u = .done (csUpdate mask val u) [] := by
  have h : updated (csValue s d) mask val ≠ csValue s d ∨ u.params.updateAlwaysWrites = true :=
    hs.imp_left fun n e => n ((csUpdated_eq_iff hl d val hk).1 e)
  simp only [access, if_pos h, actWrite, regWrite_reliable hb, writeOnBus, writeCs_updated hl hp hc hi]
  rfl

/-- The write half of `UpdateBits` on CS_A as a command's micro-operation, other agents having left CS_A and the pipelines alone since
its read half in state `u` (R12, R182). -/
theorem exec_csWrite {i : Instr} {s u : State} {rest : List Micro} {mask val d : Word} (ha : cmdAgent i = .ctrl)
    (hm : s.ctrl.m ≠ 0) (ht : s.ctrl.todo = .updWrite .csA (csValue u d) mask val :: rest) (hl : DefaultLayout u)
    (hb : BusReliable s) (hp : s.params = u.params) (hc : s.pr.cs = u.pr.cs) (hi : s.pipe = u.pipe)
    (hk : mask &&& ~~~0x030003FF#32 = 0#32) :
    (csSame mask val u → s.params.updateAlwaysWrites = false → exec i s = goOn (operandWords i) rest s) ∧
      (¬csSame mask val u ∨ s.params.updateAlwaysWrites = true →
        exec i s = goOn (operandWords i) rest (csUpdate mask val s)) := by
  rw [exec_goesOn ha hm, ht]
  exact ⟨fun h1 h2 => microStep_done rfl (access_csWrite_same hl d hk h1 h2) _ _,
    fun h => microStep_done rfl (access_csWrite hl hb hp hc hi d hk h) _ _⟩

/-! ## REG_READ and REG_WRITE, whole commands of one access (R180, R181) -/

theorem exec_regRead {s : State} {off : BitVec 8} {r : Reg} (hm : AtStart s)
    (hr : regAt s.params.regmap (off.setWidth 32) = some r) :
    exec (.regRead off) s =
      match regRead r s with
      | .ok v t => .next (endCommand 0 .ok (t.setCtx { t.ctx with lastRead := some v }))
      | .fault f => .fault f
      | .refused x => .refused x := by
  simp only [exec, execRegRead]
  rw [runCommand_begin hm (t := s) (todo := [.readReg r, .ret .ok]) (by simp [beginRegRead, beginRegister_eq, hr]),
    microStep_eq (runQuiet_access rfl _ _ _)]
  simp only [access, actRead]
  cases regRead r s <;> rfl

theorem exec_regWrite {s : State} {off : BitVec 8} {v : Word} {r : Reg} (hm : AtStart s)
    (hr : regAt s.params.regmap (off.setWidth 32) = some r) :
    exec (.regWrite off v) s =
      match regWrite r v s with
      | .ok _ t => .next (endCommand 1 .ok t)
      | .fault f => .fault f
      | .refused x => .refused x := by
  simp only [exec, execRegWrite]
  rw [runCommand_begin hm (t := s) (todo := [.writeReg r v, .ret .ok]) (by simp [beginRegWrite, beginRegister_eq, hr]),
    microStep_eq (runQuiet_access rfl _ _ _)]
  simp only [access, actWrite]
  cases regWrite r v s <;> rfl

/-! ## The masks of the default layout (R51 to R57) -/

theorem modeKnown_bcm : modeKnown bcmMode = 0x1FFFFFFF#32 := by decide
theorem modeRefused_bcm : modeRefused bcmMode = 0x0F400000#32 := by decide
theorem formatKnown_bcm : formatKnown bcmFormat = 0xFFFFFFFF#32 := by decide
theorem dreqKnown_bcm : dreqKnown bcmDreq = 0x7F7F7F7F#32 := by decide
theorem intKnown_bcm : intKnown bcmInt = 0xF#32 := by decide

/-! ## The permitted layouts -/

/-- A field is the bits it takes. -/
theorem fieldGet_toNat {lo w : Nat} (h : w < 32) (v : Word) : (fieldGet ⟨lo, w⟩ v).toNat = (v.extractLsb' lo w).toNat := by
  have hw : 2 ^ w - 1 < 2 ^ 32 := by have := Nat.pow_lt_pow_right (a := 2) (by decide) h; omega
  rw [fieldGet, BitVec.toNat_and, BitVec.toNat_ushiftRight, BitVec.toNat_ofNat, Nat.mod_eq_of_lt hw,
    Nat.and_two_pow_sub_one_eq_mod, BitVec.extractLsb'_toNat]

theorem fieldGet_eq_iff {lo w : Nat} (h : w < 32) (v x : Word) (y : BitVec w) (e : x.toNat = y.toNat) :
    fieldGet ⟨lo, w⟩ v = x ↔ v.extractLsb' lo w = y := by
  rw [← BitVec.toNat_inj, ← BitVec.toNat_inj, fieldGet_toNat h, e]

/-- `layout_ok` on the bits of the default layout (R373). -/
theorem formatOk_iff (c : Word) : formatOk bcmFormat c = true ↔ FormatBits c := by
  simp only [formatOk, bcmFormat, fieldTest, FormatBits, Bool.and_eq_true, beq_iff_eq, decide_eq_true_eq,
    fieldGet_eq_iff (w := 4) (by decide) c 8#32 8#4 rfl, fieldGet_toNat (w := 10) (by decide), and_assoc]

/-- A SLOT step is on a permitted layout (R373). -/
theorem layoutOk_iff {s : State} (h : s.params.regmap = bcm2835) : layoutOk s = true ↔ LayoutBits s.pr := by
  simp only [layoutOk, h, LayoutBits, bcm2835, Bool.and_eq_true, beq_iff_eq, Bool.or_eq_true, Bool.not_eq_true', formatOk_iff,
    and_assoc]
  simp only [bcmMode, fieldGet_eq_iff (w := 10) (by decide) s.pr.mode 63#32 63#10 rfl, or_iff_not_imp_left, Bool.not_eq_false]

end Sys2Proof.Machine
end

