-- ==== Sys2Proof/Laws/Stops.lean ====
section
/-! SUPPORT. What a stop leaves of the command it cuts short, and that a stopped machine answers its stop again (R414 to R416). -/

namespace Sys2Proof.Machine

/-! ## A command's register-only work -/

/-- RESOLVE's body changes only the Device Context (R210). -/
theorem resolveProfile_frame {b : BitVec 8} {s t : State} (h : resolveProfile b s = .ok t) :
    ∃ c, t = { s with ctx := c } := by
  unfold resolveProfile at h
  repeat' (split at h)
  all_goals first
    | (injection h with h; subst h; exact ⟨_, rfl⟩)
    | cases h

/-- What the beginning of a command changes: the Device Context, and the teardown's first failure (R295). -/
theorem commandBegin_frame {i : Instr} {s t : State} {todo : List Micro} (h : commandBegin i s = .run t todo) :
    t = { s with ctx := t.ctx, ctrl := { s.ctrl with first := t.ctrl.first } } := by
  cases i
  all_goals
    simp only [commandBegin, beginRegRead, beginRegWrite, beginRegUpdateBits, beginRegister, beginResolve, beginClearRegisters,
      beginConfigure, beginEnable, beginClearFifos, beginPrimeTxFifo, beginSyncFifos, beginDmaPrepare, beginDmaSubmit, beginDmaTerminate,
      beginInit, beginBuffers, beginStop, beginStart, beginExit, badState] at h
  all_goals
    repeat' (split at h)
    all_goals first
      | (injection h with h1 h2; subst h1; rfl)
      | (injection h with h1 h2; subst h1; obtain ⟨c, rfl⟩ := resolveProfile_frame ‹resolveProfile _ _ = _›; rfl)
      | cases h

/-- What a command's register-only work changes (R12). -/
theorem quietWork_frame (todo : List Micro) (s : State) :
    quietWork todo s =
      { s with
        ctx := (quietWork todo s).ctx
        traces := { s.traces with discardLog := (quietWork todo s).traces.discardLog } } := by
  induction todo generalizing s with
  | nil => rfl
  | cons mi rest ih =>
    unfold quietWork
    split
    · next t e => rw [ih t, quiet_frame e]
    · rfl
    · rfl

/-- What a stop keeps of CTRL's current micro-operation. -/
theorem ctrlWork_frame (s : State) :
    ctrlWork s =
      { s with
        ctx := (ctrlWork s).ctx
        ctrl := { s.ctrl with first := (ctrlWork s).ctrl.first }
        traces := { s.traces with discardLog := (ctrlWork s).traces.discardLog } } := by
  unfold ctrlWork
  split
  · rfl
  · split
    · split
      · next t todo e => rw [quietWork_frame todo t, commandBegin_frame e]
      · rfl
    · rw [quietWork_frame s.ctrl.todo s]

/-- The work of a command past micro-step 0, and of one that begins. -/
theorem ctrlWork_goesOn {i : Instr} {s : State} (hd : decodeFor .ctrl (ctrlWords s) = .ok i) (hm : s.ctrl.m ≠ 0) :
    ctrlWork s = quietWork s.ctrl.todo s := by
  unfold ctrlWork; rw [hd]; exact if_neg hm

theorem ctrlWork_begins {i : Instr} {s t : State} {todo : List Micro} (hd : decodeFor .ctrl (ctrlWords s) = .ok i)
    (hm : s.ctrl.m = 0) (hb : commandBegin i s = .run t todo) : ctrlWork s = quietWork todo t := by
  unfold ctrlWork; rw [hd]; simp only [if_pos hm, hb]

/-! ## The state a stop leaves -/

/-- A fault that is not CTRL's leaves the state as it was (R415). -/
theorem faultState_other {f : Fault} (h : ∀ k m, faultSite f ≠ .ctrl k m) (s : State) : faultState f s = s := by
  unfold faultState
  split
  · next e => exact absurd e (h _ _)
  all_goals rfl

theorem faultState_ctrl {f : Fault} {k m : Nat} (h : faultSite f = .ctrl k m) (s : State) : faultState f s = ctrlWork s := by
  unfold faultState; rw [h]

/-- A fault keeps all but the register-only work of CTRL's command. -/
theorem faultState_frame (f : Fault) (s : State) :
    faultState f s =
      { s with
        ctx := (faultState f s).ctx
        ctrl := { s.ctrl with first := (faultState f s).ctrl.first }
        traces := { s.traces with discardLog := (faultState f s).traces.discardLog } } := by
  unfold faultState
  split
  · exact ctrlWork_frame s
  all_goals rfl

/-- So does a refusal, which keeps the event of the call it refuses the answer of, too. -/
theorem refusalState_frame (r : Refusal) (s : State) :
    refusalState r s =
      { s with
        ctx := (refusalState r s).ctx
        ctrl := { s.ctrl with first := (refusalState r s).ctrl.first }
        traces := { s.traces with
          discardLog := (refusalState r s).traces.discardLog
          events := (refusalState r s).traces.events } } := by
  cases r
  case allocAnswer virt phys size => unfold refusalState logEvent; rw [ctrlWork_frame s]; rfl
  all_goals first | rfl | (simp only [refusalState]; rw [ctrlWork_frame s])

/-- A machine stopped by a fault answers it again. -/
theorem step_faulted {s : State} {f : Fault} {fs : List Fault} (hl : launchRefusal s.params = none) (hr : s.refused = none)
    (hf : s.faults = f :: fs) : step s = .fault f := by
  simp only [step, hl, hr, hf]

/-- A machine stopped by a refusal answers it again. -/
theorem step_refused {s : State} {r : Refusal} (hl : launchRefusal s.params = none) (hr : s.refused = some r) :
    step s = .refused r := by
  simp only [step, hl, hr]

end Sys2Proof.Machine
end

