-- ==== Sys2Proof/Tests/Slice0.lean ====
section
/-! SUPPORT. Tests: ill-formed terms, each command decoded from a word written out from its format, the illegal encodings V1 to V19 of
95_test_vectors.md, single steps from its vectors, and for each obligation a witness that meets its hypotheses. -/

namespace Sys2Proof.Tests

open Sys2Proof.Machine

/-! ## WellFormed refuses an offset that is not a multiple of 4 (R107) -/

theorem test_illFormed_regRead : WellFormed (.regRead 0x02#8) = false := by decide
theorem test_illFormed_regWrite : WellFormed (.regWrite 0x07#8 0#32) = false := by decide
theorem test_illFormed_regUpdateBits : WellFormed (.regUpdateBits 0x1D#8 6#32 6#32) = false := by decide
theorem test_wellFormed_regRead : WellFormed (.regRead 0x20#8) = true := by decide

/-! ## Every command from a word written out from R140 to R154: OPC in 31:24, RSV 0, IMM in 15:0, then the operand words -/

theorem test_decode_regRead : decode [0x01000004#32] = .ok (.regRead 0x04#8) := by decide
theorem test_decode_regWrite : decode [0x02000008#32, 0x00B0FC20#32] = .ok (.regWrite 0x08#8 0x00B0FC20#32) := by decide
theorem test_decode_regUpdateBits : decode [0x03000000#32, 0x6#32, 0x2#32] = .ok (.regUpdateBits 0x00#8 6#32 2#32) := by decide
theorem test_decode_resolve : decode [0x10000007#32] = .ok (.resolve 7#8) := by decide
theorem test_decode_clearRegisters : decode [0x11000000#32] = .ok .clearRegisters := by decide
theorem test_decode_configure : decode [0x12000000#32] = .ok .configure := by decide
theorem test_decode_enable : decode [0x13000000#32] = .ok .enable := by decide
theorem test_decode_clearFifos : decode [0x20000002#32] = .ok (.clearFifos false true) := by decide
theorem test_decode_primeTxFifo : decode [0x2100FFFF#32] = .ok (.primeTxFifo 65535#16) := by decide
theorem test_decode_syncFifos : decode [0x22000001#32] = .ok (.syncFifos true false) := by decide
theorem test_decode_dmaPrepare : decode [0x30000001#32] = .ok (.dmaPrepare .tx) := by decide
theorem test_decode_dmaSubmit : decode [0x31000000#32] = .ok .dmaSubmit := by decide
theorem test_decode_dmaTerminate : decode [0x32000000#32] = .ok .dmaTerminate := by decide
theorem test_decode_periodCallback : decodeFor .irq [0x33000000#32] = .ok .periodCallback := by decide
theorem test_decode_init : decode [0x40000002#32] = .ok (.init 2#8) := by decide
theorem test_decode_buffersSetup : decode [0x41000000#32, 0x40#32, 0x2#32] = .ok (.buffersSetup 64#32 2#32) := by decide
theorem test_decode_stop : decode [0x42000000#32] = .ok .stop := by decide
theorem test_decode_start : decode [0x42000001#32] = .ok .start := by decide
theorem test_decode_exit : decode [0x43000000#32] = .ok .exit := by decide
theorem test_decode_waitCompletion : decodeFor .cons [0x50000000#32] = .ok .waitCompletion := by decide
theorem test_decode_readBufIdx : decodeFor .cons [0x51000000#32] = .ok .readBufIdx := by decide

/-- V1 to V5, V8 to V14: F_ILLEGAL_COMMAND in CTRL's stream. -/
theorem test_decode_illegal :
    ∀ w ∈ [0x00000000#32, 0x00010002#32, 0x01010000#32, 0x01010002#32, 0x01000100#32, 0x11000001#32, 0x41000001#32, 0x30000002#32,
      0x20000004#32, 0x42000002#32, 0x33000000#32, 0x50000000#32],
      decodeFor .ctrl [w, 64#32, 2#32] = .error (.illegal w) := by
  simp only [List.forall_mem_cons]
  exact ⟨by decide, by decide, by decide, by decide, by decide, by decide, by decide, by decide, by decide, by decide, by decide,
    by decide, by simp⟩

/-- V13, V15: F_ILLEGAL_COMMAND in CONS's stream. -/
theorem test_decode_illegal_cons :
    ∀ w ∈ [0x33000000#32, 0x12000000#32], decodeFor .cons [w] = .error (.illegal w) := by
  simp only [List.forall_mem_cons]
  exact ⟨by decide, by decide, by simp⟩

/-- V6. -/
theorem test_decode_badOffset : decodeFor .ctrl [0x01000002#32] = .error (.badOffset 0x01000002#32) := by decide

/-- V16, V17. -/
theorem test_decode_truncated :
    decodeFor .ctrl [0x02000008#32] = .error (.truncated 0x02000008#32) ∧
      decodeFor .ctrl [0x03000000#32, 0x6#32] = .error (.truncated 0x03000000#32) := by decide

/-- The bring-up pseudo-instruction of section 2.1 of the vectors, encoded. -/
theorem test_pseudo_bringup :
    (pseudoExpand (.bringup 0#8 64#32 2#32)).flatMap encode = [0x40000000#32, 0x41000000#32, 0x40#32, 0x2#32] := by decide

/-! ## Small states and readers -/

/-- L0 with the given draws, answers and allocator answers. -/
def base : State :=
  { State.reset with
    inputs := ⟨[], List.replicate 9 true, [.ok 0x80001000#32 0x1000#32 65536#32], [0xCAFE0001#32], List.replicate 12 0xFFFFFFFF#32, 0⟩ }

/-- EN and STBY at 1. -/
def opened : State := { base with pr := { base.pr with cs := { base.pr.cs with en := true, stby := true } } }

/-- After `init default`: the region of the vectors, the default bundle. -/
def inited (p : Params) (id : BitVec 8) : State :=
  { opened with
    params := p
    ctx := { base.ctx with
      initDone := true
      resolved := true
      profile := profileBundle p id
      region := ⟨0x80001000#32, 0x1000#32, 65536#32⟩ } }

/-- After BUFFERS_SETUP's geometry for (64, 2). -/
def geom : State :=
  { inited vectorParams 0#8 with
    ctx := { (inited vectorParams 0#8).ctx with geom := geometryOf 0x1000#32 64#32 2#32, geomValid := true } }

/-- The descriptor of a direction for (64, 2). -/
def descOfDir (d : Dir) : Desc := descOf vectorParams (geometryOf 0x1000#32 64#32 2#32) d

/-- A running channel of a direction at `pos`. -/
def running (d : Dir) (pos : Word) (pending : Nat) : Channel := ⟨.running, none, some (descOfDir d), pos, pending, false⟩

/-- Both channels running, requests on. -/
def streaming : State :=
  { geom with
    pr := { geom.pr with cs := { geom.pr.cs with dmaen := true, rxon := true, txon := true }, dreq := 0x10303020#32 }
    dmaRx := running .rx 508#32 1
    dmaTx := running .tx 0#32 0
    ctx := { geom.ctx with state := .streaming } }

/-- A register of the next state passes a test. -/
def nextIs (o : Host.Outcome State Fault Refusal) (f : State → Bool) : Bool :=
  match o with
  | .next t => f t
  | _ => false

/-- The outcome is this fault. -/
def faultIs (o : Host.Outcome State Fault Refusal) (f : Fault) : Bool :=
  match o with
  | .fault g => g == f
  | _ => false

/-- The outcome is this refusal. -/
def refusedIs (o : Host.Outcome State Fault Refusal) (r : Refusal) : Bool :=
  match o with
  | .refused x => x == r
  | _ => false

/-! ## Single steps from the vectors -/

/-- R101, R50: GRAY lies 0x20 above `P_BASE`, and nothing lies at 0x24. -/
theorem test_register_space :
    regCpuAddr vectorParams .gray = vectorParams.base + 0x20#32 ∧
      regAtCpu vectorParams (vectorParams.base + 0x20#32) = some .gray ∧
      regAtCpu vectorParams (vectorParams.base + 0x24#32) = none ∧ regAtCpu vectorParams 0x20#32 = none := by decide

/-- V30, the draws all ones: 0x022A0001 with bits 31:26 and 14:10 at 1. -/
theorem test_regRead_cs :
    nextIs (exec (.regRead 0x00#8) { opened with params := { vectorParams with txwLevel := ⟨64, 64, 64, 64⟩ } })
      (fun t => t.ctx.lastRead == some (0x022A0001#32 ||| 0xFC007C00#32)) = true := by decide

/-- V38. -/
theorem test_regRead_fifo :
    nextIs (exec (.regRead 0x04#8) { opened with fifo := ⟨[], [⟨0xA#32, .ch1⟩, ⟨0xB#32, .ch2⟩]⟩ })
      (fun t => t.ctx.lastRead == some 0xA#32 && t.fifo.rx == [⟨0xB#32, .ch2⟩]) = true := by decide

/-- V39: FTXP is refused. -/
theorem test_regWrite_mode_refused :
    refusedIs (exec (.regWrite 0x08#8 0x01B0FC20#32) base) (.modeUnmodelled 0x01B0FC20#32) = true := by decide

/-- V44: reserved bits are stored as 0. -/
theorem test_regWrite_dreq :
    nextIs (exec (.regWrite 0x14#8 0xFFFFFFFF#32) base) (fun t => t.pr.dreq == 0x7F7F7F7F#32) = true := by decide

/-- V31, the write half: the word read was 0x02008201. -/
theorem test_regUpdateBits_write :
    nextIs (exec (.regUpdateBits 0x00#8 6#32 6#32)
        { opened with
          pr := { opened.pr with cs := { opened.pr.cs with txerr := true, dmaen := true } }
          ctrl := { opened.ctrl with m := 1, todo := [.updWrite .csA 0x02008201#32 6#32 6#32, .ret .ok] } })
      (fun t => t.pr.cs.rxon && t.pr.cs.txon && !t.pr.cs.txerr && t.pr.cs.dmaen && t.ctrl.k == 3) = true := by decide

/-- V32: an update that sets RXERR changes nothing. -/
theorem test_regUpdateBits_same :
    nextIs (exec (.regUpdateBits 0x00#8 0x10000#32 0x10000#32)
        { opened with
          pr := { opened.pr with cs := { opened.pr.cs with rxerr := true } }
          ctrl := { opened.ctrl with m := 1, todo := [.updWrite .csA 0x02010001#32 0x10000#32 0x10000#32, .ret .ok] } })
      (fun t => t.pr.cs.rxerr) = true := by decide

/-- S1: 64 x 48000. -/
theorem test_resolve_bcp :
    nextIs (exec (.resolve 2#8) base)
      (fun t => t.ctx.profile.bclkRate == 3072000#32 && t.ctx.profile.ch2Pos == 32#9 && t.ctx.resolved) = true := by decide

/-- V50. -/
theorem test_resolve_unknown :
    nextIs (exec (.resolve 3#8) { base with params := { vectorParams with unknownProfile := .error } })
      (fun t => t.ctx.result == .unknownProfile && !t.ctx.resolved) = true := by decide

/-- V61, its first access: MODE_A. -/
theorem test_clearRegisters :
    nextIs (exec .clearRegisters { base with pr := { base.pr with mode := 0x00B0FC20#32, rxc := 7#32 } })
      (fun t => t.pr.mode == 0#32 && t.pr.rxc == 7#32 && t.ctrl.m == 1) = true := by decide

/-- V54, V55: MODEVAL, FMTVAL and DREQVAL. -/
theorem test_configure_values :
    modeVal bcmMode (profileBundle vectorParams 0#8) = 0x00B0FC20#32 ∧ modeVal bcmMode (profileBundle vectorParams 2#8) = 0x0010FC20#32 ∧
      formatVal bcmFormat (profileBundle vectorParams 1#8) = 0xC018C218#32 ∧ dreqVal bcmDreq vectorParams = 0x10303020#32 ∧
      thresholdMask bcmCs = 0x3E0#32 ∧ thresholdVal bcmCs vectorParams = 0x2A0#32 := by decide

/-- V52. -/
theorem test_configure_unresolved :
    faultIs (exec .configure base) (.illegalState (.ctrl 0 0) .configure) = true := by decide

/-- V53. -/
theorem test_enable_unconfigured : faultIs (exec .enable base) (.illegalState (.ctrl 0 0) .enable) = true := by decide

/-- S5: the last write restores the enables the first read captured. -/
theorem test_clearFifos_restores :
    nextIs (exec (.clearFifos true true) { opened with pr := { opened.pr with cs := { opened.pr.cs with txon := true } } })
      (fun t => t.ctrl.todo.getLast? == some (.ret .ok) && t.ctrl.todo.dropLast.getLast? == some (.updRead .csA 6#32 4#32)) = true := by
  decide

/-- V77. -/
theorem test_primeTxFifo_none :
    nextIs (exec (.primeTxFifo 0#16) base) (fun t => t.fifo.tx == [] && t.ctx.result == .ok && t.ctrl.k == 1) = true := by decide

/-- V79. -/
theorem test_primeTxFifo_off : faultIs (exec (.primeTxFifo 1#16) base) (.fifoOff (.ctrl 0 0) .write) = true := by decide

/-- S8: the second of two zeros ends the loop. -/
theorem test_syncFifos_pair :
    nextIs (exec (.syncFifos true true)
        { opened with
          fifo := ⟨[], [⟨0#32, .ch1⟩, ⟨9#32, .ch2⟩]⟩
          ctx := { opened.ctx with sync := ⟨4#32, 0#32, true, 5#32⟩ }
          ctrl := { opened.ctrl with m := 9, todo := [.syncPop false, .ret .ok] } })
      (fun t => t.ctx.sync.discards == 5#32 && t.ctx.result == .ok && t.fifo.rx == [⟨9#32, .ch2⟩]) = true := by decide

/-- S8: one zero with no previous pop does not; the count and the word kept are merged with the next access (R12). -/
theorem test_syncFifos_first :
    nextIs (exec (.syncFifos true true)
        { opened with
          fifo := ⟨[], [⟨0#32, .ch1⟩]⟩
          ctrl := { opened.ctrl with m := 9, todo := [.syncPop false, .ret .ok] } })
      (fun t => t.ctx.sync == ⟨0#32, 0#32, false, 0#32⟩ &&
        t.ctrl.todo == [.countPop 0#32, .retain 0#32, .syncStatus false, .ret .ok]) = true := by decide

/-- V91, the second call. -/
theorem test_dmaPrepare :
    nextIs (exec (.dmaPrepare .tx) { geom with ctrl := { geom.ctrl with m := 1, todo := [.prepCyclic .tx, .ret .ok] } })
      (fun t => t.dmaTx.phase == .prepared && t.dmaTx.desc == some ⟨0x1400#32, 1024#32, 512#32, false⟩) = true := by decide

/-- V92. -/
theorem test_dmaPrepare_noGeometry :
    faultIs (exec (.dmaPrepare .rx) base) (.illegalState (.ctrl 0 0) .dmaPrepare) = true := by decide

/-- V97. -/
theorem test_dmaSubmit_fails :
    nextIs (exec .dmaSubmit
        { geom with
          dmaRx := { geom.dmaRx with phase := .prepared, desc := some (descOfDir .rx) }
          dmaTx := { geom.dmaTx with phase := .prepared, desc := some (descOfDir .tx) }
          inputs := { geom.inputs with answers := [false] } })
      (fun t => t.ctx.result == .submit && t.dmaRx.phase == .prepared && t.traces.events == [.submit .rx false]) = true := by decide

/-- V99. -/
theorem test_dmaSubmit_idle : faultIs (exec .dmaSubmit geom) (.illegalState (.ctrl 0 0) .dmaSubmit) = true := by decide

/-- V109, on TX: the pending completions are dropped. -/
theorem test_dmaTerminate :
    nextIs (exec .dmaTerminate { streaming with dmaTx := running .tx 0#32 2 })
      (fun t => t.dmaTx.phase == .stopping && t.dmaTx.pending == 0 && t.ctrl.todo.head? == some (.synchronize .tx)) = true := by decide

/-- V105. -/
theorem test_periodCallback :
    nextIs (exec .periodCallback { streaming with ctx := { streaming.ctx with irqCount := 0xFFFFFFFF#32, bufIdx := true } })
      (fun t => t.ctx.irqCount == 0#32 && !t.ctx.bufIdx && t.ctx.notify && t.dmaRx.pending == 0) = true := by decide

/-- V107. -/
theorem test_periodCallback_error :
    nextIs (exec .periodCallback { streaming with dmaTx := { running .tx 0#32 0 with err := true } })
      (fun t => t.ctx.dmaErrors == 1#32 && !t.dmaTx.err && t.dmaTx.phase == .running) = true := by decide

/-- V120. -/
theorem test_init_fails :
    nextIs (exec (.init 0#8) { base with inputs := { base.inputs with allocs := [.fail] } })
      (fun t => t.ctx.result == .alloc && t.ctx.resolved && !t.ctx.initDone) = true := by decide

/-- V173. -/
theorem test_init_refused :
    refusedIs (exec (.init 0#8) { base with inputs := { base.inputs with allocs := [.ok 0x80001000#32 0x1002#32 65536#32] } })
      (.allocAnswer 0x80001000#32 0x1002#32 65536#32) = true := by decide

/-- S2: (4095, 1), the largest single-channel fit. -/
theorem test_buffersSetup_geometry :
    nextIs (exec (.buffersSetup 4095#32 1#32) (inited vectorParams 0#8))
      (fun t => t.ctx.geom.bufLen == 32760#32 && t.ctx.geom.txBase == 0x8FF8#32 && t.ctx.geom.cvBase == 0x10FF0#32) = true := by decide

/-- V130. -/
theorem test_buffersSetup_refused :
    nextIs (exec (.buffersSetup 4096#32 1#32) (inited vectorParams 0#8))
      (fun t => t.ctx.result == .geometry && t.ctx.state == .unconfigured && t.traces.events == []) = true := by decide

/-- V126. -/
theorem test_stop_nothing :
    nextIs (exec .stop base) (fun t => t.ctx.result == .ok && t.ctx.state == .unconfigured && t.pr == base.pr) = true := by decide

/-- V134. -/
theorem test_start_streaming : faultIs (exec .start streaming) (.illegalState (.ctrl 0 0) .start) = true := by decide

/-- S7: the default profile runs no synchronizer: one update of CS_A is all there is. -/
theorem test_start_straight :
    nextIs (exec .start { geom with ctx := { geom.ctx with state := .configured } })
      (fun t => t.ctx.state == .synchronizing && t.ctrl.todo.length == 3) = true := by decide

/-- V128. -/
theorem test_exit_stopped :
    faultIs (exec .exit { base with ctx := { base.ctx with state := .stopped } }) (.illegalState (.ctrl 0 0) .exit) = true := by decide

/-- V135. -/
theorem test_waitCompletion_holds :
    exec .waitCompletion base = .next base := by rfl

/-- V136. -/
theorem test_readBufIdx :
    nextIs (exec .readBufIdx { base with ctx := { base.ctx with bufIdx := true } })
      (fun t => t.ctx.consIdx == some true && t.cons.k == 1) = true := by decide

/-- V137, V138: F_MEM_RANGE and F_MISALIGNED; R353: misaligned at the region's last bytes. -/
theorem test_consumer_faults :
    faultIs (agentStep (.consData (.read 0x0FFC#32 .word)) geom) (.memRange (.cons 0) 0x0FFC#32) = true ∧
      faultIs (agentStep (.consData (.write 0x1402#32 .word 1#32)) geom) (.misaligned (.cons 0) 0x1402#32) = true ∧
      faultIs (agentStep (.consData (.read 0x10FFE#32 .word)) geom) (.misaligned (.cons 0) 0x10FFE#32) = true := by decide

/-- V103. -/
theorem test_beat_rx :
    nextIs (agentStep (.beat .rx)
        { streaming with pr := { streaming.pr with dreq := 0#32 }, dmaRx := running .rx 508#32 0, fifo := ⟨[], [⟨0x11223344#32, .ch1⟩]⟩ })
      (fun t => t.dmaRx.pos == 512#32 && t.dmaRx.pending == 1 && t.fifo.rx == [] &&
        t.mem == [(0x11FC, 0x44#8), (0x11FD, 0x33#8), (0x11FE, 0x22#8), (0x11FF, 0x11#8)]) = true := by decide

/-- V160. -/
theorem test_beat_tx :
    nextIs (agentStep (.beat .tx)
        { streaming with
          mem := [(0x1400, 0x78#8), (0x1401, 0x56#8), (0x1402, 0x34#8), (0x1403, 0x12#8)]
          fifo := ⟨List.replicate 47 0#32, []⟩ })
      (fun t => t.fifo.tx.getLast? == some 0x12345678#32 && t.dmaTx.pos == 4#32 && !beatEnabled .tx t) = true := by decide

/-- V152. -/
theorem test_slot_rx :
    nextIs (agentStep .slot
        { opened with
          pr := { opened.pr with cs := { opened.pr.cs with rxon := true }, mode := 0x00B0FC20#32, rxc := 0xC008C208#32 }
          fifo := ⟨[], [⟨1#32, .ch1⟩, ⟨2#32, .ch2⟩, ⟨3#32, .ch1⟩]⟩
          pipe := { opened.pipe with slotPhase := .ch2 } })
      (fun t => t.fifo.rx.getLast? == some ⟨0xCAFE0001#32, .ch2⟩ && t.pipe.slotPhase == .ch1) = true := by decide

/-- V157. -/
theorem test_pcmClock :
    nextIs (agentStep .pcmClock
        { opened with
          pr := { opened.pr with mode := 0x00B0FC20#32 }
          fifo := ⟨[7#32], []⟩
          pipe := ⟨true, false, 1, .one, .none, .ch1⟩ })
      (fun t => t.fifo.tx == [] && t.pipe.clrTx == .none && t.pipe.syncCnt == 2 && t.pipe.syncR) = true := by decide

/-- V175, and the recorded fault stops the machine. -/
theorem test_fault_recorded :
    faultIs (step { base with ctrl := ⟨[0#32, 0#32, 0#32, 0x01000024#32], 3, 0, [], .ok⟩, inputs := { base.inputs with moves := [.ctrl] } })
      (.badOffset (.ctrl 3 0) 0x24#32) = true := by decide

/-- R415: BUFFERS_SETUP's geometry stays when DMA_PREPARE's guard then faults. -/
theorem test_fault_keeps :
    (let s := { inited vectorParams 0#8 with
      ctrl := ⟨[0x41000000#32, 64#32, 2#32], 0, 0, [], .ok⟩
      dmaRx := running .rx 0#32 0
      inputs := { base.inputs with moves := [.ctrl] } }
     (settle s (step s)).ctx.geomValid && (settle s (step s)).faults == [.illegalState (.ctrl 0 0) .dmaPrepare]) = true := by decide

/-- R416, R455: a refused launch with empty streams is not a run that has ended; the launch L0 is. -/
theorem test_refused_launch_not_ended :
    ¬Ended { base with params := { vectorParams with relayEnabled := true } } ∧ EndsAt base base :=
  ⟨fun h => absurd h.2.2.2.2 (by decide), .refl _, by decide, by decide, rfl, rfl, rfl⟩

/-- R370, R454: CONS holding in WAIT_COMPLETION has no step that FAIR asks for; with the notification raised it has. -/
theorem test_fair_consumer :
    agentEnabled { base with cons := ⟨[0x50000000#32], 0⟩ } .cons = false ∧
      agentEnabled { base with cons := ⟨[0x50000000#32], 0⟩, ctx := { base.ctx with notify := true } } .cons = true := by decide

/-- V170 to V172: refused launches. -/
theorem test_launch_refused :
    refusedIs (step { base with params := { vectorParams with dreqTx := 128 } }) .levelLaunch = true ∧
      refusedIs (step { base with params := { vectorParams with relayEnabled := true } }) .relayLaunch = true ∧
      refusedIs (step { base with params := { vectorParams with syncPollLimit := some 0 } }) .pollLaunch = true := by decide

/-! ## Witnesses: for each obligation with hypotheses, states and operands that meet them, at the bounds of their ranges -/

theorem witness_DecodeEncode :
    WellFormed (.regRead 0x20#8) = true ∧ CmdAgent.cons ≠ cmdAgent (.regRead 0x20#8) ∧ WellFormed (.primeTxFifo 0xFFFF#16) = true := by
  decide

theorem witness_DecodeSound : decode [0x03000020#32, 0xFFFFFFFF#32, 0#32, 7#32] = .ok (.regUpdateBits 0x20#8 0xFFFFFFFF#32 0#32) := by
  decide

theorem witness_IllegalEncodings :
    ((0x52000000#32 : Word).toNat / 2 ^ 24 = 0x52 ∧ (0x33000000#32 : Word).toNat / 2 ^ 24 = 0x33 ∧
      (0x51010000#32 : Word).toNat / 2 ^ 16 % 256 = 1 ∧ (0x43000001#32 : Word).toNat % 2 ^ 16 = 1 ∧
      (0x42000100#32 : Word).toNat / 2 ^ 8 % 256 = 1 ∧ (0x22000004#32 : Word).toNat % 256 = 4 ∧
      (0x30000002#32 : Word).toNat % 256 = 2) ∧
    { base with ctrl := ⟨[0x52000000#32], 0, 0, [], .ok⟩ }.ctrl.stream.drop 0 = [0x52000000#32] ∧
    { base with cons := ⟨[0x33000000#32], 0⟩ }.cons.stream.drop 0 = [0x33000000#32] := by decide

theorem witness_DecodeProcedure :
    decodeFor .cons [0x51000000#32] = .ok .readBufIdx ∧
      decodeFor .ctrl [0x41000000#32, 1#32, 2#32] = .ok (.buffersSetup 1#32 2#32) := by decide

/-- CTRL, CONS and IRQ each to move, from reset. -/
theorem witness_StepRunsDecoded :
    (NoFault (State.reset.withFetchWord 32 0x43000000) ∧
        (moveOf (State.reset.withFetchWord 32 0x43000000).inputs).1 = .ctrl ∧
        decodeFor .ctrl ((State.reset.withFetchWord 32 0x43000000).ctrl.stream.drop 0) = .ok .exit) ∧
      ((moveOf (State.reset.withFetchWord 32 0x51000000).inputs).1 = .cons ∧
        decodeFor .cons ((State.reset.withFetchWord 32 0x51000000).cons.stream.drop 0) = .ok .readBufIdx) ∧
      ((moveOf (State.reset.withFetchWord 32 0x33000000).inputs).1 = .irq ∧
        0 < ((State.reset.withFetchWord 32 0x33000000).chan .rx).pending) := by
  refine ⟨⟨⟨rfl, rfl, rfl⟩, rfl, rfl⟩, ⟨rfl, rfl⟩, rfl, by decide⟩

/-- A fault, a refusal, and each launch refusal one past its bound. -/
theorem witness_StopsForGood :
    (NoFault (State.reset.withFetchWord 32 0) ∧ step (State.reset.withFetchWord 32 0) = .fault (.illegalCommand (.ctrl 0 0) 0#32)) ∧
      (NoFault (State.reset.withFetchWord 64 0x0040000002000008) ∧
        step (State.reset.withFetchWord 64 0x0040000002000008) = .refused (.modeUnmodelled 0x00400000#32)) ∧
      ¬(({ vectorParams with posDefault := (32, 64) } : Params).posDefault.1 ≤ 31) ∧
      ¬(1 ≤ ({ vectorParams with posShifted := (0, 32) } : Params).posShifted.1) ∧
      127 < ({ vectorParams with dreqRx := 128 } : Params).dreqRx ∧ 3 < ({ vectorParams with rxThr := 4 } : Params).rxThr := by
  refine ⟨⟨⟨rfl, rfl, rfl⟩, rfl⟩, ⟨⟨rfl, rfl, rfl⟩, rfl⟩, by decide, by decide, by decide, by decide⟩

/-- BUFFERS_SETUP with the capture channel not IDLE, and a timed-out clear whose next read fails. -/
theorem witness_StopsForGood_work :
    (let s := { inited vectorParams 0#8 with
      ctrl := ⟨[0x41000000#32, 64#32, 2#32], 0, 0, [], .ok⟩
      dmaRx := running .rx 0#32 0
      inputs := { base.inputs with moves := [.ctrl] } }
     NoFault s ∧ (moveOf s.inputs).1 = .ctrl ∧ AtStart s ∧
      decodeFor .ctrl (s.ctrl.stream.drop s.ctrl.k) = .ok (.buffersSetup 64#32 2#32) ∧ s.ctx.state = .unconfigured ∧
      s.ctx.initDone = true ∧ geometryOk 64#32 2#32 s.ctx.region.size = true ∧ s.dmaRx.phase ≠ .idle) ∧
    (let s := { base with
      params := { vectorParams with busMayFail := true }
      ctrl := ⟨[0x20000003#32], 0, 1006, [.clearPoll 0#32 0, .updRead .csA 6#32 0#32, .ret .ok], .ok⟩
      inputs := { base.inputs with moves := [.ctrl], answers := [false] } }
     NoFault s ∧ (moveOf s.inputs).1 = .ctrl ∧ s.ctrl.m ≠ 0 ∧
      decodeFor .ctrl (s.ctrl.stream.drop s.ctrl.k) = .ok (.clearFifos true true) ∧
      s.ctrl.todo = .clearPoll 0#32 0 :: .updRead .csA 6#32 0#32 :: [.ret .ok] ∧ s.params.busMayFail = true ∧
      (answerOf (moveOf s.inputs).2).1 = false) := by
  refine ⟨⟨⟨rfl, rfl, rfl⟩, rfl, rfl, rfl, rfl, rfl, by decide, by decide⟩, ⟨rfl, rfl, rfl⟩, rfl, by decide, rfl, rfl, rfl, rfl⟩

theorem witness_ReadCsA : AtStart base ∧ DefaultLayout base ∧ BusReliable base := ⟨rfl, rfl, rfl⟩

theorem witness_WriteCsA : AtStart opened ∧ DefaultLayout opened ∧ BusReliable opened := ⟨rfl, rfl, rfl⟩

/-- The four clauses: closed, a word waiting, empty, and the TX FIFO one word short of full and full. -/
theorem witness_FifoAccesses :
    (AtStart base ∧ DefaultLayout base ∧ BusReliable base ∧ base.pr.cs.stby = false) ∧
      (FifoOpen opened ∧ { opened with fifo := ⟨[], [⟨5#32, .ch1⟩]⟩ }.fifo.rx = ⟨5#32, .ch1⟩ :: [] ∧ opened.fifo.rx = []) ∧
      { opened with fifo := ⟨List.replicate 63 0#32, []⟩ }.fifo.tx.length < vectorParams.fifoDepth ∧
      vectorParams.fifoDepth ≤ { opened with fifo := ⟨List.replicate 64 0#32, []⟩ }.fifo.tx.length := by
  refine ⟨⟨rfl, rfl, rfl, rfl⟩, ⟨⟨rfl, rfl⟩, rfl, rfl⟩, by decide, by decide⟩

/-- The layout of V153 for the SLOT clause. -/
theorem witness_PlainRegisters :
    let s := { opened with
      clkEnabled := true
      pr := { opened.pr with cs := { opened.pr.cs with rxon := true }, mode := 0x0010FC20#32, rxc := 0xC028C208#32 } }
    AtStart s ∧ DefaultLayout s ∧ BusReliable s ∧ slotEnabled s = true ∧ ¬LayoutBits s.pr ∧
      (0x00400000#32 : Word).getLsbD 22 = true ∧ (0x1030FFFF#32 : Word).getLsbD 22 = false := by
  refine ⟨rfl, rfl, rfl, by decide, ?_, by decide, by decide⟩
  unfold LayoutBits FormatBits; decide

theorem witness_IntstcAndGray : AtStart base ∧ DefaultLayout base ∧ BusReliable base := ⟨rfl, rfl, rfl⟩

theorem witness_BadOffset :
    AtStart base ∧ DefaultLayout base ∧
      0x24#8 ∉ [0x00#8, 0x04#8, 0x08#8, 0x0C#8, 0x10#8, 0x14#8, 0x18#8, 0x1C#8, 0x20#8] ∧
      (0x03000001#32 : Word).toNat / 2 ^ 24 = 3 ∧ (0x03000001#32 : Word).toNat % 4 ≠ 0 := by
  refine ⟨rfl, rfl, by decide, by decide, by decide⟩

/-- The read half of MODE_A, then the write half with and without a change. -/
theorem witness_UpdateBitsHalves :
    (AtStart base ∧ regAt base.params.regmap ((0x1C#8).setWidth 32) = some .intstcA ∧
        regRead .intstcA base = .ok 0xFFFFFFF0#32 (base.setInputs (drawOf base.inputs).2)) ∧
      (let s := { base with ctrl := { base.ctrl with m := 1, todo := [.updWrite .modeA 0x20#32 0xFF#32 0x20#32, .ret .ok] } }
       s.ctrl.m ≠ 0 ∧ (0x20#32 &&& ~~~0xFF#32) ||| (0x20#32 &&& 0xFF#32) = 0x20#32 ∧ s.params.updateAlwaysWrites = false) ∧
      (0x20#32 &&& ~~~0xFF#32) ||| (0x21#32 &&& 0xFF#32) ≠ 0x20#32 := by
  refine ⟨⟨rfl, rfl, rfl⟩, ⟨by decide, by decide, rfl⟩, by decide⟩

theorem witness_UpdateCsWhole : AtStart opened ∧ DefaultLayout opened ∧ BusReliable opened ∧ opened.params.updateAlwaysWrites = false :=
  ⟨rfl, rfl, rfl, rfl⟩

/-- Commands whose first access fails, a write next, a poll after a time-out's count, an update that writes, and ENABLE's first access in
BUFFERS_SETUP. -/
theorem witness_BusFailure :
    base.params.busMayFail = false ∧
      (let s := { inited { vectorParams with busMayFail := true } 1#8 with
        inputs := { base.inputs with answers := [false] } }
       AtStart s ∧ (answerOf s.inputs).1 = false ∧ s.ctx.resolved = true ∧ s.ctx.profile.bclkMaster = false ∧
        { s with ctx := { s.ctx with configured := true } }.ctx.configured = true ∧
        { s with ctx := { s.ctx with state := .streaming } }.ctx.state = .streaming) ∧
      (let s := { base with
        params := { vectorParams with busMayFail := true }
        inputs := { base.inputs with answers := [false] }
        ctrl := { base.ctrl with m := 7, todo := [.setConfigured true, .guardConfigured, .updRead .csA 1#32 1#32] } }
       (answerOf s.inputs).1 = false ∧ s.ctrl.m ≠ 0 ∧ nextAccess s = some (.updRead .csA 1#32 1#32) ∧
        s.ctrl.todo = [.setConfigured true, .guardConfigured] ++ .updRead .csA 1#32 1#32 :: []) ∧
      (let s := { base with
        params := { vectorParams with busMayFail := true }
        inputs := { base.inputs with answers := [false] }
        ctrl := { base.ctrl with m := 1, todo := [.clearPoll 0#32 0, .updWrite .csA 0#32 6#32 6#32, .ret .ok] } }
       s.ctrl.m ≠ 0 ∧ s.ctrl.todo = .clearPoll 0#32 0 :: .updWrite .csA 0#32 6#32 6#32 :: [.ret .ok] ∧
        (0#32 &&& ~~~6#32) ||| (6#32 &&& 6#32) ≠ 0#32) ∧
      (let s := { base with
        params := { vectorParams with busMayFail := true }
        inputs := { base.inputs with answers := [false] }
        ctrl := { base.ctrl with m := 1, todo := [.writeReg .rxcA 0#32] } }
       s.params.busMayFail = true ∧ (answerOf s.inputs).1 = false ∧ s.ctrl.m ≠ 0 ∧ s.ctrl.todo = .writeReg .rxcA 0#32 :: [] ∧
        cmdAgent .clearRegisters = .ctrl ∧ regAt s.params.regmap ((0x20#8).setWidth 32) = some .gray) ∧
      AtStart { base with params := { vectorParams with busMayFail := true }, inputs := { base.inputs with answers := [false] } } := by
  refine ⟨rfl, ⟨rfl, rfl, rfl, rfl, rfl, rfl⟩, ⟨rfl, by decide, rfl, rfl⟩, ⟨by decide, rfl, by decide⟩,
    ⟨rfl, rfl, by decide, rfl, rfl, rfl⟩, rfl⟩

/-- Byte 3 under policy `error`; bytes 2 and 3 otherwise, not resolved, the same bundle, another bundle. -/
theorem witness_Resolve :
    AtStart base ∧ (3 ≤ (3#8).toNat ∧ ({ vectorParams with unknownProfile := .error } : Params).unknownProfile = .error) ∧
      (2#8).toNat < 3 ∧ base.params.unknownProfile = .fallbackDefault ∧ base.ctx.resolved = false ∧
      ((inited vectorParams 0#8).ctx.resolved = true ∧ profileBundle vectorParams 0#8 = (inited vectorParams 0#8).ctx.profile) ∧
      profileBundle vectorParams 1#8 ≠ (inited vectorParams 0#8).ctx.profile := by
  refine ⟨rfl, ⟨by decide, rfl⟩, by decide, rfl, rfl, ⟨rfl, rfl⟩, by decide⟩

/-- The bounds of the positions (V63) and of the sample rate. -/
theorem witness_ProfileTable :
    launchRefusal { vectorParams with posDefault := (31, 63), posShifted := (31, 63), sampleRate := 67108863 } = none ∧
      64 * ({ vectorParams with sampleRate := 67108863 } : Params).sampleRate < 2 ^ 32 := by decide

theorem witness_ClearRegisters : AtStart base ∧ BusReliable base := ⟨rfl, rfl⟩

/-- Both slave profiles, with and without a change of the CS_A fields. -/
theorem witness_ConfigureSlave :
    (∀ id ∈ [0#8, 1#8], AtStart (inited vectorParams id) ∧ DefaultLayout (inited vectorParams id) ∧
        BusReliable (inited vectorParams id) ∧ launchRefusal (inited vectorParams id).params = none ∧
        (inited vectorParams id).ctx.resolved = true ∧ id.toNat < 2 ∧
        (inited vectorParams id).ctx.profile = profileBundle (inited vectorParams id).params id) ∧
      (inited vectorParams 0#8).pr.cs.dmaen = false ∧
      (({ inited vectorParams 0#8 with
        pr := { opened.pr with cs := { opened.pr.cs with txthr := 1#2, rxthr := 1#2, dmaen := true } } } : State).pr.cs.txthr =
          BitVec.ofNat 2 vectorParams.txThr) := by
  refine ⟨fun id h => ?_, rfl, rfl⟩
  simp only [List.mem_cons, List.not_mem_nil, or_false] at h
  rcases h with rfl | rfl <;> exact ⟨rfl, rfl, rfl, rfl, rfl, by decide, rfl⟩

theorem witness_ConfigureMaster :
    AtStart (inited vectorParams 2#8) ∧ DefaultLayout (inited vectorParams 2#8) ∧ BusReliable (inited vectorParams 2#8) ∧
      launchRefusal (inited vectorParams 2#8).params = none ∧ (inited vectorParams 2#8).ctx.resolved = true ∧
      (inited vectorParams 2#8).ctx.profile = profileBundle (inited vectorParams 2#8).params 2#8 ∧
      (inited vectorParams 2#8).inputs.answers = true :: true :: List.replicate 7 true :=
  ⟨rfl, rfl, rfl, rfl, rfl, rfl, rfl⟩

/-- STBY and EN at 0 (V59) and both at 1 (V60). -/
theorem witness_Enable :
    (let s := { base with ctx := { base.ctx with configured := true } }
     AtStart s ∧ DefaultLayout s ∧ BusReliable s ∧ ReservedZero s ∧ s.ctx.configured = true ∧ s.pr.cs.stby = false) ∧
      (let s := { opened with ctx := { base.ctx with configured := true } }
       s.params.updateAlwaysWrites = false ∧ s.pr.cs.stby = true ∧ s.pr.cs.en = true ∧ s.ctx.configured = true) := by
  refine ⟨⟨rfl, rfl, rfl, ?_, rfl, rfl⟩, rfl, rfl, rfl, rfl⟩
  unfold ReservedZero; decide

/-- Each guard's failing states. -/
theorem witness_Guards :
    AtStart base ∧ base.ctx.resolved = false ∧ base.ctx.configured = false ∧ base.ctx.geomValid = false ∧
      (streaming.chan .rx).phase ≠ .idle ∧ base.dmaRx.phase ≠ .prepared ∧ streaming.ctx.state ≠ .unconfigured ∧
      geom.ctx.initDone = true ∧ base.ctx.initDone = false ∧ base.ctx.state ≠ .configured ∧
      ({ base with ctx := { base.ctx with state := .stopped } } : State).ctx.state = .stopped := by
  refine ⟨rfl, rfl, rfl, rfl, by decide, by decide, by decide, rfl, rfl, by decide, rfl⟩

theorem witness_ClearFifosTimesOut : AtStart opened ∧ DefaultLayout opened ∧ BusReliable opened := ⟨rfl, rfl, rfl⟩

theorem witness_ClearFifosEcho :
    AtStart opened ∧ DefaultLayout opened ∧ BusReliable opened ∧ opened.params.clearPollLimit ≠ 0 ∧
      opened.pipe.syncW = opened.pipe.syncR ∧ opened.pipe.clrTx = .none ∧ opened.pipe.clrRx = .none ∧
      (let s := { opened with pipe := ⟨true, false, 1, .zero, .none, .ch1⟩ }
       s.pipe.syncW ≠ s.pipe.syncR ∧ s.pipe.syncCnt = 1 ∧ s.pipe.clrTx ≠ .one ∧ s.pipe.clrRx ≠ .one) := by
  refine ⟨rfl, rfl, rfl, by decide, rfl, rfl, rfl, by decide⟩

/-- V77, exactly full, and V78. -/
theorem witness_PrimeTxFifo :
    AtStart opened ∧ BusReliable opened ∧ FifoOpen opened ∧ opened.fifo.tx.length + (0#16).toNat ≤ opened.params.fifoDepth ∧
      opened.fifo.tx.length + (64#16).toNat ≤ opened.params.fifoDepth ∧
      opened.params.fifoDepth < opened.fifo.tx.length + (65#16).toNat := by
  refine ⟨rfl, rfl, ⟨rfl, rfl⟩, by decide, by decide, by decide⟩

/-- The stream of scenario B (S8), the poll limit just reached. -/
theorem witness_SyncFindsZeroPair :
    let pre : List RxEntry := [⟨0x11111111#32, .ch1⟩, ⟨0x22222222#32, .ch2⟩, ⟨0#32, .ch1⟩, ⟨0x33333333#32, .ch2⟩]
    let s := { opened with
      params := { vectorParams with syncPollLimit := some 6 }
      fifo := ⟨List.replicate 58 0#32, pre ++ [⟨0#32, .ch1⟩, ⟨0#32, .ch2⟩, ⟨7#32, .ch1⟩]⟩ }
    AtStart s ∧ DefaultLayout s ∧ BusReliable s ∧ FifoOpen s ∧ noZeroPair (pre.map RxEntry.word ++ [0#32]) = true ∧
      s.fifo.tx.length + (pre.length + 2) ≤ s.params.fifoDepth ∧ (∀ n, s.params.syncPollLimit = some n → pre.length + 2 ≤ n) ∧
      s.pr.cs.txon = false ∧ s.params.updateAlwaysWrites = false := by
  refine ⟨rfl, rfl, rfl, ⟨rfl, rfl⟩, by decide, by decide, ?_, rfl, rfl⟩
  rintro n h
  cases h
  decide

theorem witness_SyncTimesOut :
    let s := { base with params := { vectorParams with syncPollLimit := some 1 } }
    AtStart s ∧ DefaultLayout s ∧ BusReliable s ∧ s.fifo.rx = [] ∧ s.params.syncPollLimit = some 1 := ⟨rfl, rfl, rfl, rfl, rfl⟩

theorem witness_DmaPrepare :
    AtStart geom ∧ DefaultLayout geom ∧ (geom.chan .rx).phase = .idle ∧ (geom.chan .tx).phase = .idle ∧ geom.ctx.geomValid = true ∧
      geom.inputs.answers = true :: true :: List.replicate 7 true := ⟨rfl, rfl, rfl, rfl, rfl, rfl⟩

/-- Each failure of one preparation, the capture channel prepared, and BUFFERS_SETUP's first failure (S9). -/
theorem witness_DmaPrepareFails :
    (AtStart geom ∧ (geom.chan .rx).phase = .idle ∧ geom.ctx.geomValid = true ∧
        ({ geom with inputs := { geom.inputs with answers := [false] } } : State).inputs.answers = false :: [] ∧
        ({ geom with inputs := { geom.inputs with answers := [true, false] } } : State).inputs.answers = true :: false :: []) ∧
      (let s := { geom with
        dmaRx := { geom.dmaRx with phase := .prepared }
        inputs := { geom.inputs with answers := [true, false, true] } }
       AtStart s ∧ DefaultLayout s ∧ s.dmaTx.phase = .idle ∧ s.ctx.geomValid = true ∧ s.dmaRx.phase ≠ .idle ∧
        s.inputs.answers = [true, false] ++ true :: []) ∧
      (AtStart (inited vectorParams 0#8) ∧ (inited vectorParams 0#8).ctx.state = .unconfigured ∧
        (inited vectorParams 0#8).ctx.initDone = true ∧
        geometryOk 64#32 2#32 (inited vectorParams 0#8).ctx.region.size = true ∧ (inited vectorParams 0#8).dmaRx.phase = .idle) := by
  refine ⟨⟨rfl, rfl, rfl, rfl, rfl⟩, ⟨rfl, rfl, rfl, rfl, by decide, rfl⟩, rfl, rfl, rfl, by decide, rfl⟩

theorem witness_DmaSubmit :
    let s := { geom with dmaRx := { geom.dmaRx with phase := .prepared }, dmaTx := { geom.dmaTx with phase := .prepared } }
    AtStart s ∧ s.dmaRx.phase = .prepared ∧ s.dmaTx.phase = .prepared ∧ s.inputs.answers = true :: true :: List.replicate 7 true ∧
      ({ s with inputs := { s.inputs with answers := [false] } } : State).inputs.answers = false :: [] ∧
      ({ s with inputs := { s.inputs with answers := [true, false] } } : State).inputs.answers = true :: false :: [] :=
  ⟨rfl, rfl, rfl, rfl, rfl, rfl⟩

/-- EXIT's sequence at its two requests and at its wait, on a running and on an idle channel. -/
theorem witness_Teardown :
    cmdAgent .exit = .ctrl ∧
      (let s := { streaming with ctrl := { streaming.ctrl with m := 1, todo := [.terminate .rx, .setCoord .stopped, .retFirst] } }
       s.ctrl.m ≠ 0 ∧ s.ctrl.todo = .terminate .rx :: .setCoord .stopped :: [.retFirst] ∧
        s.inputs.answers = true :: List.replicate 8 true ∧ (s.chan .rx).phase ∈ [Phase.prepared, .submitted, .running] ∧
        (base.chan .rx).phase ∈ [Phase.idle, .stopping, .stopped]) ∧
      (let s := { streaming with ctrl := { streaming.ctrl with m := 1, todo := [.terminate .tx, .terminate .rx, .retFirst] } }
       s.ctrl.todo = .terminate .tx :: .terminate .rx :: [.retFirst]) ∧
      (let s := { streaming with ctrl := { streaming.ctrl with m := 2, todo := [.synchronize .tx, .terminate .rx, .retFirst] } }
       s.ctrl.todo = .synchronize .tx :: .terminate .rx :: [.retFirst] ∧ (s.chan .tx).phase ∉ [Phase.stopped, .idle] ∧
        (base.chan .tx).phase ∈ [Phase.stopped, .idle]) ∧
      (let s := { base with
        ctrl := { base.ctrl with m := 4, todo := [.synchronize .rx, .setCoord .stopped, .retFirst] }
        inputs := { base.inputs with answers := [false] } }
       s.ctrl.todo = .synchronize .rx :: .setCoord .stopped :: .retFirst :: [] ∧ s.inputs.answers = false :: []) := by
  refine ⟨rfl, ⟨by decide, rfl, rfl, by decide, by decide⟩, rfl, ⟨rfl, by decide, by decide⟩, rfl, rfl⟩

theorem witness_DmaTerminate :
    AtStart base ∧ base.dmaTx.phase = .idle ∧ base.dmaRx.phase = .idle ∧ base.inputs.answers = true :: true :: List.replicate 7 true ∧
      ({ base with inputs := { base.inputs with answers := [false, false] } } : State).inputs.answers = false :: false :: [] ∧
      AtStart streaming ∧ streaming.dmaTx.phase = .running := ⟨rfl, rfl, rfl, rfl, rfl, rfl, rfl⟩

theorem witness_PeriodCallback : 0 < (streaming.chan streaming.params.callbackDir).pending := by decide

/-- An unknown profile, a first and a second INIT, the allocator's failure, and answers at and past R336's bounds. -/
theorem witness_Init :
    AtStart base ∧ base.ctx.state = .unconfigured ∧ base.ctx.initDone = false ∧ 3 ≤ (3#8).toNat ∧ base.ctx.resolved = false ∧
      ({ base with ctx := { base.ctx with resolved := true, profile := profileBundle vectorParams 0#8 } } : State).ctx.profile =
        profileBundle vectorParams 0#8 ∧
      (let s := { base with ctx := { base.ctx with resolved := true, profile := profileBundle vectorParams 0#8 } }
       s.ctx.resolved = true ∧ s.ctx.profile ≠ profileBundle vectorParams 2#8) ∧
      base.inputs.allocs = .ok 0x80001000#32 0x1000#32 65536#32 :: [] ∧
      ((65536#32 = vectorParams.maxBufferBytes ∧ (0xFFFF0000#32).toNat % 4 = 0 ∧ (0xFFFF0000#32).toNat + (65536#32).toNat ≤ 2 ^ 32)) ∧
      ¬((0xFFFF0004#32).toNat + (65536#32).toNat ≤ 2 ^ 32) := by
  refine ⟨rfl, rfl, rfl, by decide, rfl, rfl, ⟨rfl, by decide⟩, rfl, ⟨rfl, by decide, by decide⟩, by decide⟩

/-- The largest single-channel fit, the first pair that does not fit, and zeros (S2). -/
theorem witness_BuffersGeometry :
    let s := inited vectorParams 0#8
    AtStart s ∧ s.ctx.state = .unconfigured ∧ s.ctx.initDone = true ∧ s.dmaRx.phase = .idle ∧
      2 * (2 * ((4095#32).toNat * (1#32).toNat * 4)) + 8 ≤ s.ctx.region.size.toNat ∧
      s.ctx.region.size.toNat < 2 * (2 * ((4096#32).toNat * (1#32).toNat * 4)) + 8 ∧
      s.ctx.region.phys.toNat + s.ctx.region.size.toNat ≤ 2 ^ 32 := by
  refine ⟨rfl, rfl, rfl, rfl, by decide, by decide, by decide⟩

/-- The three profiles, with channel counts up to the FIFO's room. -/
theorem witness_BuffersSetupCompletes :
    ∀ id ∈ [0#8, 1#8, 2#8], let s := inited vectorParams id
      AtStart s ∧ DefaultLayout s ∧ BusReliable s ∧ launchRefusal s.params = none ∧ s.ctx.state = .unconfigured ∧
        s.ctx.initDone = true ∧ s.ctx.resolved = true ∧ id.toNat < 3 ∧ s.ctx.profile = profileBundle s.params id ∧
        geometryOk 64#32 16#32 s.ctx.region.size = true ∧ s.dmaRx.phase = .idle ∧ s.dmaTx.phase = .idle ∧ AnswersOkFor 8 s ∧
        s.fifo.rx = [] ∧ ReservedZero s ∧ s.fifo.tx.length + s.params.dreqTx + (16#32).toNat ≤ s.params.fifoDepth := by
  intro id h
  simp only [List.mem_cons, List.not_mem_nil, or_false] at h
  rcases h with rfl | rfl | rfl <;>
    refine ⟨rfl, rfl, rfl, rfl, rfl, rfl, rfl, by decide, rfl, by decide, rfl, rfl, rfl, rfl, ?_, by decide⟩ <;>
    (unfold ReservedZero; decide)

/-- A refused TX submission of bit-clock-provider, its playback termination refused too. -/
theorem witness_BuffersSetupCompletes_unwinds :
    ({ base.inputs with answers := List.replicate 7 true ++ [false, false, true] } : Inputs).answers =
      List.replicate 6 true ++ [true, false] ++ false :: true :: [] := rfl

theorem witness_StartStraight :
    let s := { geom with ctx := { geom.ctx with state := .configured } }
    AtStart s ∧ DefaultLayout s ∧ BusReliable s ∧ s.ctx.state = .configured ∧ s.ctx.profile.profileId ≠ 2#8 ∧ s.pr.cs.txon = false := by
  refine ⟨rfl, rfl, rfl, rfl, by decide, rfl⟩

/-- The shortest zero pair (S8), and an empty FIFO with the smallest limit. -/
theorem witness_StartSynchronizes :
    let s := { inited { vectorParams with syncPollLimit := some 2 } 2#8 with
      ctx := { (inited vectorParams 2#8).ctx with state := .configured }
      fifo := ⟨[], [⟨0#32, .ch1⟩, ⟨0#32, .ch2⟩]⟩ }
    AtStart s ∧ DefaultLayout s ∧ BusReliable s ∧ s.ctx.state = .configured ∧ s.ctx.profile.profileId = 2#8 ∧ FifoOpen s ∧
      s.fifo.rx = [] ++ ⟨0#32, .ch1⟩ :: ⟨0#32, .ch2⟩ :: [] ∧ noZeroPair ([] ++ [0#32]) = true ∧
      s.fifo.tx.length + ([].length (α := RxEntry) + 2) ≤ s.params.fifoDepth ∧
      (∀ n, s.params.syncPollLimit = some n → [].length (α := RxEntry) + 2 ≤ n) ∧
      ({ s with fifo := ⟨[], []⟩, params := { vectorParams with syncPollLimit := some 1 } } : State).params.syncPollLimit = some 1 := by
  refine ⟨rfl, rfl, rfl, rfl, rfl, ⟨rfl, rfl⟩, rfl, rfl, by decide, ?_, rfl⟩
  rintro n h
  cases h
  decide

theorem witness_Stop :
    AtStart base ∧ base.ctx.state ≠ .streaming ∧ AtStart streaming ∧ streaming.ctx.state = .streaming ∧ DefaultLayout streaming ∧
      BusReliable streaming := by
  refine ⟨rfl, by decide, rfl, rfl, rfl, rfl⟩

theorem witness_Exit :
    AtStart streaming ∧ streaming.ctx.state ≠ .stopped ∧ streaming.dmaTx.phase = .running ∧
      streaming.inputs.answers = true :: true :: List.replicate 7 true ∧
      ({ streaming with inputs := { base.inputs with answers := [false, true] } } : State).inputs.answers = false :: true :: [] := by
  refine ⟨rfl, by decide, rfl, rfl, rfl⟩

theorem witness_ConsumerCommands :
    base.ctx.notify = false ∧ ({ base with ctx := { base.ctx with notify := true } } : State).ctx.notify = true := ⟨rfl, rfl⟩

/-- The last word of the region, a misaligned word inside its last bytes, below it, and an aligned word past the end of a region of 65534 bytes. -/
theorem witness_ConsumerData :
    MemCanonical geom ∧
      (geom.ctx.region.phys.toNat ≤ (0x10FFC#32).toNat ∧
        (0x10FFC#32).toNat + 4 ≤ geom.ctx.region.phys.toNat + geom.ctx.region.size.toNat ∧ (0x10FFC#32).toNat % 4 = 0) ∧
      ((0x10FFD#32).toNat < geom.ctx.region.phys.toNat + geom.ctx.region.size.toNat ∧ (0x10FFD#32).toNat % 4 ≠ 0) ∧
      ¬(geom.ctx.region.phys.toNat ≤ (0xFFF#32).toNat) ∧
      ((0x10FFC#32).toNat < (0x1000#32).toNat + (65534#32).toNat ∧ (0x1000#32).toNat + (65534#32).toNat < (0x10FFC#32).toNat + 4) := by
  refine ⟨rfl, ⟨by decide, by decide, by decide⟩, ⟨by decide, by decide⟩, by decide, by decide, by decide⟩

theorem witness_PcmClock :
    DefaultLayout base ∧ base.pr.mode.getLsbD 28 = false ∧ base.pr.mode.getLsbD 23 = false ∧ base.clkEnabled = false ∧
      ({ base with clkEnabled := true } : State).clkEnabled = true := ⟨rfl, rfl, rfl, rfl, rfl⟩

/-- Not enabled, V153, and a good layout with an empty and a full FIFO. -/
theorem witness_Slot :
    (DefaultLayout base ∧ base.pr.cs.en = false) ∧
      (let s := { opened with
        clkEnabled := true
        pr := { opened.pr with cs := { opened.pr.cs with rxon := true }, mode := 0x0010FC20#32, rxc := 0xC028C208#32 } }
       slotEnabled s = true ∧ ¬LayoutBits s.pr) ∧
      (let s := { opened with
        pr := { opened.pr with
          cs := { opened.pr.cs with rxon := true, txon := true }
          mode := 0x00B0FC20#32
          rxc := 0xC1F8C3F8#32
          txc := 0xC008C208#32 }
        fifo := ⟨[], List.replicate 64 ⟨1#32, .ch1⟩⟩ }
       slotEnabled s = true ∧ LayoutBits s.pr ∧ s.fifo.tx = [] ∧ s.params.fifoDepth ≤ s.fifo.rx.length) := by
  refine ⟨⟨rfl, rfl⟩, ⟨by decide, ?_⟩, by decide, ?_, rfl, by decide⟩ <;> (unfold LayoutBits FormatBits; decide)

/-- The invariant of the region, for channels running the two buffers of (64, 2). -/
theorem streaming_regionSound : RegionSound streaming := by
  refine ⟨by decide, fun _ => ⟨rfl, by unfold GeomFits InBuffer; decide⟩, ?_, fun h => absurd rfl h⟩
  intro d x h
  cases d <;> (cases h; exact ⟨rfl, by unfold DescFits InBuffer; decide⟩)

/-- V158 and V159. -/
theorem witness_BeatRx :
    (DefaultLayout streaming ∧ MemCanonical streaming ∧ RegionSound streaming ∧ streaming.dmaRx.desc = some (descOfDir .rx)) ∧
      (streaming.dmaRx.phase = .running ∧ streaming.pr.cs.dmaen = true ∧ streaming.pr.cs.en = true ∧ streaming.pr.cs.stby = true) ∧
      streaming.pr.dreq.toNat % 128 < (List.replicate 33 (⟨0x11223344#32, .ch1⟩ : RxEntry)).length ∧
      ¬(streaming.pr.dreq.toNat % 128 < (List.replicate 32 (⟨0x11223344#32, .ch1⟩ : RxEntry)).length) := by
  refine ⟨⟨rfl, rfl, streaming_regionSound, rfl⟩, ⟨rfl, rfl, rfl, rfl⟩, by decide, by decide⟩

/-- V160: one word below the level, and at it. -/
theorem witness_BeatTx :
    (DefaultLayout streaming ∧ RegionSound streaming ∧ streaming.dmaTx.desc = some (descOfDir .tx) ∧ streaming.dmaTx.phase = .running ∧
        streaming.pr.cs.dmaen = true) ∧
      (List.replicate 47 (0#32 : Word)).length < streaming.pr.dreq.toNat / 2 ^ 8 % 128 ∧
      ¬((List.replicate 48 (0#32 : Word)).length < streaming.pr.dreq.toNat / 2 ^ 8 % 128) := by
  refine ⟨⟨rfl, streaming_regionSound, rfl, rfl, rfl⟩, by decide, by decide⟩

theorem witness_QuiesceEnvHost :
    DefaultLayout base ∧ ({ base with dmaRx := { base.dmaRx with phase := .stopping } } : State).dmaRx.phase = .stopping ∧
      base.dmaTx.phase ≠ .stopping ∧ streaming.dmaRx.phase = .running ∧
      base.fifo.tx.length ≤ levelOf base.params.txwLevel base.pr.cs.txthr ∧
      base.fifo.rx.length < levelOf base.params.rxrLevel base.pr.cs.rxthr ∧ base.ctx.lastRead = none ∧ base.ctx.consIdx = none := by
  refine ⟨rfl, rfl, by decide, rfl, by decide, by decide, rfl, rfl⟩

/-- A command of each agent that answers a next state. -/
theorem witness_CommandFrame :
    (∃ t, exec .stop base = .next t) ∧ (∃ t, exec .periodCallback streaming = .next t) ∧ (∃ t, exec .readBufIdx base = .next t) ∧
      cmdAgent .stop ≠ .cons ∧ cmdAgent .periodCallback ≠ .ctrl := by
  refine ⟨⟨_, rfl⟩, ⟨_, rfl⟩, ⟨_, rfl⟩, by decide, by decide⟩

/-- `s` with `mv` to move next. -/
def withMove (mv : Move) (s : State) : State := { s with inputs := { s.inputs with moves := [mv] } }

theorem witness_OnlyCtrlWritesRegisters :
    (∃ t, step (withMove .irq streaming) = .next t) ∧ (moveOf (withMove .irq streaming).inputs).1 ≠ .ctrl := by
  refine ⟨⟨_, rfl⟩, by decide⟩

theorem witness_OnlyCallbackWritesIndex :
    ∃ t, step (withMove .irq streaming) = .next t ∧ t.ctx.bufIdx ≠ (withMove .irq streaming).ctx.bufIdx := by
  refine ⟨_, rfl, by decide⟩

theorem witness_MemoryKept :
    MemCanonical (withMove (.consData (.write 0x1000#32 .word 5#32)) geom) ∧
      ∃ t, step (withMove (.consData (.write 0x1000#32 .word 5#32)) geom) = .next t := by
  refine ⟨rfl, _, rfl⟩

theorem witness_PeripheralKept :
    (∃ t, step (withMove (.beat .tx) streaming) = .next t) ∧ FifosBounded streaming ∧ ReservedZero streaming ∧ SyncSettled streaming ∧
      ChannelsSound streaming := by
  refine ⟨⟨_, rfl⟩, by unfold FifosBounded; decide, by unfold ReservedZero; decide, by unfold SyncSettled; decide, ?_, ?_⟩ <;>
    refine ⟨by decide, ?_, ?_, fun h => by cases h⟩
  · intro x h; cases h; rfl
  · intro _; exact ⟨_, rfl, rfl⟩
  · intro x h; cases h; rfl
  · intro h; exact absurd h (by decide)

/-- DMA_PREPARE between its two calls: the descriptor is next, its channel IDLE. -/
def preparing : State := { geom with ctrl := ⟨[0x30000000#32], 0, 1, [.prepCyclic .rx, .ret .ok], .ok⟩ }

theorem witness_PhaseTransitions :
    PrepareSafe (withMove .ctrl preparing) ∧ (∃ t, step (withMove .ctrl preparing) = .next t) ∧
      PrepareSafe (withMove (.quiesce .tx) { streaming with dmaTx := { streaming.dmaTx with phase := .stopping } }) := by
  refine ⟨fun _ => .inr ⟨.rx, [.ret .ok], rfl, rfl, rfl⟩, ⟨_, rfl⟩, fun h => absurd rfl h⟩

/-- START at its last micro-operation but one. -/
theorem witness_CoordinatorTransitions :
    let s := withMove .ctrl { geom with
      ctx := { geom.ctx with state := .synchronizing }
      ctrl := ⟨[0x42000001#32], 0, 1, [.updRead .csA 6#32 6#32, .setCoord .streaming, .ret .ok], .ok⟩ }
    CoordSafe s ∧ (∃ t, step s = .next t) ∧
      CoordSafe { base with ctx := { base.ctx with state := .stopped } } := by
  refine ⟨⟨fun h => absurd h (by decide), fun _ => ?_⟩, ⟨_, rfl⟩, fun _ => by decide, fun h => absurd rfl h⟩
  simp [withMove, coordGuarded, isReturn, mayFail, inStartLoop, CoordStep]

theorem witness_ProfileImmutable :
    ProfileSound (withMove .irq streaming) ∧ (∃ t, step (withMove .irq streaming) = .next t) ∧ streaming.ctx.resolved = true ∧
      streaming.ctx.initDone = true := by
  refine ⟨fun _ => ⟨0#8, by decide, rfl⟩, ⟨_, rfl⟩, rfl, rfl⟩

theorem witness_DmaStaysInRegion :
    RegionSound (withMove (.beat .tx) streaming) ∧ (∃ t, step (withMove (.beat .tx) streaming) = .next t) ∧
      streaming.faults = [] ∧
      step (withMove (.consData (.read 0#32 .byte)) streaming) = .fault (.memRange (.cons 0) 0#32) := by
  refine ⟨streaming_regionSound, ⟨_, rfl⟩, rfl, rfl⟩

/-- One period transferred, its completion pending. -/
theorem witness_IndexTracking :
    let s := withMove .irq { streaming with dmaRx := running .rx 512#32 1 }
    IndexTracks s ∧ (∃ t, step s = .next t) ∧ (moveOf s.inputs).1 ≠ .ctrl := by
  refine ⟨⟨rfl, descOfDir .rx, rfl, rfl, by decide, by decide, by decide, by decide, by decide, by decide⟩, ⟨_, rfl⟩, by decide⟩

end Sys2Proof.Tests
end

section
/-! SUPPORT. The whole-machine frame of commands (R12, R15, R120, R420, R422, R423): what no command of CTRL changes, what the commands
of the other agents answer, and O51. -/

namespace Sys2Proof.Machine

/-- What the commands of CTRL, run from `s`, find as it was in every state `t` they reach: memory, launch parameters, streams, the stop
marks, the inputs and the trace of other agents, and the registers only the callback or the consumer writes. -/
structure CtrlKept (s t : State) : Prop where
  mem : t.mem = s.mem
  params : t.params = s.params
  stream : t.ctrl.stream = s.ctrl.stream
  cons : t.cons = s.cons
  faults : t.faults = s.faults
  refused : t.refused = s.refused
  moves : t.inputs.moves = s.inputs.moves
  rxWords : t.inputs.rxWords = s.inputs.rxWords
  txLine : t.traces.txLine = s.traces.txLine
  slotPhase : t.pipe.slotPhase = s.pipe.slotPhase
  syncR : t.pipe.syncR = s.pipe.syncR
  relayEnabled : t.ctx.relayEnabled = s.ctx.relayEnabled
  irqCount : t.ctx.irqCount = s.ctx.irqCount
  bufIdx : t.ctx.bufIdx = s.ctx.bufIdx
  dmaErrors : t.ctx.dmaErrors = s.ctx.dmaErrors
  notify : t.ctx.notify = s.ctx.notify
  consIdx : t.ctx.consIdx = s.ctx.consIdx

theorem CtrlKept.refl (s : State) : CtrlKept s s := by constructor <;> rfl

section
variable {s t : State} (h : CtrlKept s t)
include h

theorem CtrlKept.setPr (p : Peripheral) : CtrlKept s (t.setPr p) := { h with }

theorem CtrlKept.setFifo (f : Fifos) : CtrlKept s (t.setFifo f) := { h with }

theorem CtrlKept.setChan (d : Dir) (c : Channel) : CtrlKept s (t.setChan d c) := by
  cases d
  · exact { h with }
  · exact { h with }

end

/-- No single update of a CTRL command touches what `CtrlKept` names. -/
theorem ctrlKept_keepsCtrl (s : State) : KeepsCtrl (CtrlKept s) where
  inputs _ _ hm hr h := { h with moves := hm.trans h.moves, rxWords := hr.trans h.rxWords }
  traces _ _ ht h := { h with txLine := ht.trans h.txLine }
  ctrl _ _ hc h := { h with stream := hc.trans h.stream }
  lastRead _ _ h := { h with }
  sync _ _ h := { h with }
  configured _ _ h := { h with }
  coord _ _ h := { h with }
  timeouts _ _ h := { h with }
  result _ _ h := { h with }
  clkRate _ _ _ h := { h with }
  clk _ _ h := { h with }
  slave _ _ _ h := h.setChan _ _
  submit _ _ h := h.setChan _ _
  issue _ _ h := h.setChan _ _
  terminate _ _ h := h.setChan _ _
  synchronize _ _ _ h := h.setChan _ _
  pop _ _ _ _ h := h.setFifo _
  rxErr _ h := h.setPr _
  push _ _ _ h := h.setFifo _
  cs _ _ h := { h with }
  mode _ _ _ h := h.setPr _
  rxc _ _ h := h.setPr _
  txc _ _ h := h.setPr _
  dreq _ _ h := h.setPr _
  inten _ _ h := h.setPr _
  intstc _ _ h := h.setPr _
  alloc _ _ _ _ _ h := { h with }
  prep _ _ _ _ h := h.setChan _ _
  profile _ _ _ _ h := { h with }
  geom _ _ h := { h with }

theorem exec_ctrl_kept {i : Instr} {s t : State} (ha : cmdAgent i = .ctrl) (e : exec i s = .next t) : CtrlKept s t :=
  (ctrlKept_keepsCtrl s).exec ha (.refl s) e

/-- What the commands of IRQ and CONS answer: they hold, or they are the one step of PERIOD_CALLBACK, WAIT_COMPLETION or READ_BUF_IDX. -/
theorem exec_not_ctrl_cases {i : Instr} {s t : State} (ha : cmdAgent i ≠ .ctrl) (e : exec i s = .next t) :
    t = s ∨ (i = .periodCallback ∧ t = takeCompletion s) ∨
      (i = .waitCompletion ∧ t = consAdvance (s.setCtx { s.ctx with notify := false })) ∨
      (i = .readBufIdx ∧ t = consAdvance (s.setCtx { s.ctx with consIdx := some s.ctx.bufIdx })) := by
  cases i with
  | periodCallback =>
    simp only [exec, execPeriodCallback] at e
    split at e <;> cases e
    · exact .inr (.inl ⟨rfl, rfl⟩)
    · exact .inl rfl
  | waitCompletion =>
    simp only [exec, execWaitCompletion] at e
    split at e <;> cases e
    · exact .inr (.inr (.inl ⟨rfl, rfl⟩))
    · exact .inl rfl
  | readBufIdx =>
    cases e
    exact .inr (.inr (.inr ⟨rfl, rfl⟩))
  | _ => exact absurd rfl ha

/-- Settles O51: a CTRL command by the frame each of its updates keeps, a command of IRQ or CONS by the state it answers. -/
theorem commandFrame : Obligations.CommandFrame := by
  intro i s t e
  by_cases ha : cmdAgent i = .ctrl
  · have k := exec_ctrl_kept ha e
    exact ⟨fun _ => by rw [k.mem], k.mem, k.params, k.stream, congrArg Cons.stream k.cons, k.faults, k.refused, k.moves, k.rxWords,
      k.txLine, k.slotPhase, k.syncR, k.relayEnabled, fun _ => ⟨k.irqCount, k.bufIdx, k.dmaErrors, fun _ => k.notify⟩,
      fun hn => absurd ha hn, fun _ => ⟨k.cons, k.consIdx⟩⟩
  · obtain rfl | ⟨rfl, rfl⟩ | ⟨rfl, rfl⟩ | ⟨rfl, rfl⟩ := exec_not_ctrl_cases ha e
    · simp
    · simp [takeCompletion_ctx]
    · have hc : cmdAgent .waitCompletion = .cons := rfl
      simp [consAdvance, hc]
    · have hc : cmdAgent .readBufIdx = .cons := rfl
      simp [consAdvance, hc]

end Sys2Proof.Machine
end

section
/-! SUPPORT. The invariants that hold of every state by themselves, update by update: FIFO bounds, reserved bits, the SYNC counter, the
channels and the profile (R61, R59, R75, R70, R33); and with them O55 and O58. -/

namespace Sys2Proof.Machine

/-! ## FIFO bounds (R61) -/

section
variable {s : State} (h : FifosBounded s)
include h

theorem FifosBounded.pop {e : RxEntry} {rest : List RxEntry} (he : s.fifo.rx = e :: rest) :
    FifosBounded (s.setFifo { s.fifo with rx := rest }) := by
  obtain ⟨htx, hrx⟩ := h
  rw [he, List.length_cons] at hrx
  exact ⟨htx, by simp; omega⟩

theorem FifosBounded.push (v : Word) (hroom : s.fifo.tx.length < s.params.fifoDepth) :
    FifosBounded (s.setFifo { s.fifo with tx := s.fifo.tx ++ [v] }) :=
  ⟨by simpa using hroom, h.2⟩

theorem FifosBounded.pcmClock : FifosBounded (pcmClock s) := by
  have cleared {α : Type} {l : List α} {n : Nat} (c : ClearStage) (hl : l.length ≤ n) :
      (if c = .one then [] else l).length ≤ n := by
    split
    · exact Nat.zero_le n
    · exact hl
  exact ⟨cleared s.pipe.clrTx h.1, cleared s.pipe.clrRx h.2⟩

theorem FifosBounded.slotTx : FifosBounded (slotTx s) := by
  obtain ⟨htx, hrx⟩ := h
  refine ⟨?_, by simpa [slotTx_fifo] using hrx⟩
  simp only [slotTx_fifo, slotTx_params, List.length_drop]
  omega

theorem FifosBounded.slotRx : FifosBounded (slotRx s) := by
  obtain ⟨htx, hrx⟩ := h
  unfold FifosBounded
  rw [slotRx_fifo, slotRx_params]
  split
  · next hroom => exact ⟨htx, by simpa using hroom⟩
  · exact ⟨htx, hrx⟩

end

theorem FifosBounded.slotEffect {s : State} (h : FifosBounded s) : FifosBounded (slotEffect s) := by
  have tx : FifosBounded (if s.pr.cs.txon then Machine.slotTx s else s) := by
    split
    · exact h.slotTx
    · exact h
  unfold Machine.slotEffect
  dsimp only
  split
  · exact tx.slotRx
  · exact tx

/-! ## Reserved bits (R59, R189) -/

theorem and_compl_of_and (v k : Word) : (v &&& k) &&& ~~~k = 0#32 := by
  rw [BitVec.and_assoc, BitVec.and_not_self]
  exact BitVec.and_zero

/-- Setting bits that are not reserved sets no reserved bit. -/
theorem or_and_compl {x m k : Word} (hx : x &&& ~~~k = 0#32) (hm : m &&& ~~~k = 0#32) : (x ||| m) &&& ~~~k = 0#32 := by
  ext i hi
  have hxi : (x &&& ~~~k)[i] = false := by rw [hx]; simp
  have hmi : (m &&& ~~~k)[i] = false := by rw [hm]; simp
  simp at hxi hmi ⊢
  grind

theorem and_and_zero {x k : Word} (v : Word) (h : x &&& k = 0#32) : (x &&& v) &&& k = 0#32 := by
  rw [BitVec.and_assoc, BitVec.and_comm v, ← BitVec.and_assoc, h, BitVec.zero_and]

/-- Each interrupt bit is one of INTSTC_A's bits (R57). -/
theorem intBits_known (f : IntFields) :
    fieldMask f.txw &&& ~~~intKnown f = 0#32 ∧ fieldMask f.rxr &&& ~~~intKnown f = 0#32 ∧
      fieldMask f.txerr &&& ~~~intKnown f = 0#32 ∧ fieldMask f.rxerr &&& ~~~intKnown f = 0#32 := by
  have absorb (a b c d : Word) : a &&& ~~~(a ||| b ||| c ||| d) = 0#32 ∧ b &&& ~~~(a ||| b ||| c ||| d) = 0#32 ∧
      c &&& ~~~(a ||| b ||| c ||| d) = 0#32 ∧ d &&& ~~~(a ||| b ||| c ||| d) = 0#32 := by
    refine ⟨?_, ?_, ?_, ?_⟩ <;> ext i hi <;> simp <;> grind
  exact absorb _ _ _ _

/-- INTSTC_A keeps its reserved bits where bits of `m` are set that are not reserved. -/
theorem ReservedZero.setInt {s : State} (h : ReservedZero s) (cs : CsA) {m : Word}
    (hm : m &&& ~~~intKnown s.params.regmap.int = 0#32) :
    ReservedZero (s.setPr { s.pr with cs := cs, intstc := s.pr.intstc ||| m }) := by
  obtain ⟨mode, refused, rxc, txc, dreq, inten, intstc⟩ := h
  exact ⟨mode, refused, rxc, txc, dreq, inten, or_and_compl intstc hm⟩

section
variable {s : State} (h : ReservedZero s)
include h

theorem ReservedZero.setRxErr : ReservedZero (setRxErr s) := h.setInt _ (intBits_known _).2.2.2

theorem ReservedZero.setTxErr : ReservedZero (setTxErr s) := h.setInt _ (intBits_known _).2.2.1

theorem ReservedZero.envTxw : ReservedZero (envTxwStep s) := h.setInt _ (intBits_known _).1

theorem ReservedZero.envRxr : ReservedZero (envRxrStep s) := h.setInt _ (intBits_known _).2.1

theorem ReservedZero.slotTx : ReservedZero (slotTx s) := by
  unfold ReservedZero
  rw [slotTx_pr, slotTx_params]
  split
  · exact h.setTxErr
  · exact h

theorem ReservedZero.slotRx : ReservedZero (slotRx s) := by
  unfold ReservedZero
  rw [slotRx_pr, slotRx_params]
  split
  · exact h
  · exact h.setRxErr

theorem ReservedZero.writeMode {v : Word} (hv : v &&& modeRefused s.params.regmap.mode = 0#32) :
    ReservedZero (s.setPr { s.pr with mode := v &&& modeKnown s.params.regmap.mode }) := by
  obtain ⟨-, -, rxc, txc, dreq, inten, intstc⟩ := h
  exact ⟨and_compl_of_and _ _, and_and_zero _ hv, rxc, txc, dreq, inten, intstc⟩

theorem ReservedZero.writeRxc (v : Word) : ReservedZero (s.setPr { s.pr with rxc := v &&& formatKnown s.params.regmap.fmt }) := by
  obtain ⟨mode, refused, -, txc, dreq, inten, intstc⟩ := h
  exact ⟨mode, refused, and_compl_of_and _ _, txc, dreq, inten, intstc⟩

theorem ReservedZero.writeTxc (v : Word) : ReservedZero (s.setPr { s.pr with txc := v &&& formatKnown s.params.regmap.fmt }) := by
  obtain ⟨mode, refused, rxc, -, dreq, inten, intstc⟩ := h
  exact ⟨mode, refused, rxc, and_compl_of_and _ _, dreq, inten, intstc⟩

theorem ReservedZero.writeDreq (v : Word) : ReservedZero (s.setPr { s.pr with dreq := v &&& dreqKnown s.params.regmap.dreq }) := by
  obtain ⟨mode, refused, rxc, txc, -, inten, intstc⟩ := h
  exact ⟨mode, refused, rxc, txc, and_compl_of_and _ _, inten, intstc⟩

theorem ReservedZero.writeInten (v : Word) : ReservedZero (s.setPr { s.pr with inten := v &&& intKnown s.params.regmap.int }) := by
  obtain ⟨mode, refused, rxc, txc, dreq, -, intstc⟩ := h
  exact ⟨mode, refused, rxc, txc, dreq, and_compl_of_and _ _, intstc⟩

theorem ReservedZero.clearIntstc (v : Word) : ReservedZero (s.setPr { s.pr with intstc := s.pr.intstc &&& ~~~v }) := by
  obtain ⟨mode, refused, rxc, txc, dreq, inten, intstc⟩ := h
  exact ⟨mode, refused, rxc, txc, dreq, inten, and_and_zero _ intstc⟩

end

theorem ReservedZero.slotEffect {s : State} (h : ReservedZero s) : ReservedZero (slotEffect s) := by
  have tx : ReservedZero (if s.pr.cs.txon then Machine.slotTx s else s) := by
    split
    · exact h.slotTx
    · exact h
  unfold Machine.slotEffect
  dsimp only
  split
  · exact tx.slotRx
  · exact tx

/-! ## The SYNC counter (R75) -/

/-- A write of CS_A restarts the echo, or writes SYNC as it stands (R75, R186). -/
theorem SyncSettled.writeCs {s : State} (h : SyncSettled s) (v : Word) : SyncSettled (writeCs v s) := by
  obtain ⟨le, settled⟩ := h
  simp only [SyncSettled, Machine.writeCs, State.setPipe_pipe]
  split
  · next same =>
    rw [eq_of_beq same]
    exact ⟨le, settled⟩
  · simp

/-- The clock that counts to 2 delivers the echo (R75, R371). -/
theorem SyncSettled.pcmClock {s : State} (h : SyncSettled s) : SyncSettled (pcmClock s) := by
  obtain ⟨le, settled⟩ := h
  simp only [SyncSettled, Machine.pcmClock, pipeTick, State.setPipe_pipe]
  rcases Nat.lt_or_eq_of_le le with lt | eq
  · rw [if_pos lt]
    exact ⟨by omega, fun two => if_pos ⟨lt, two⟩⟩
  · simp [eq, settled eq]

/-- A SLOT step turns the slot phase and leaves SYNC alone (R372). -/
theorem slotEffect_pipe (s : State) : (slotEffect s).pipe = { s.pipe with slotPhase := otherSlot s.pipe.slotPhase } := by
  unfold slotEffect; dsimp only; split <;> split <;> simp

/-! ## Channels (R70, R72, R291, R322) -/

section
variable {p : Params} {d : Dir} {c : Channel} (h : ChannelSound p d c)
include h

/-- A channel's soundness reads whether its phase is IDLE, its descriptor and its completions, of which there may be fewer. -/
theorem ChannelSound.congr {c' : Channel} (phase : c'.phase = .idle ↔ c.phase = .idle) (desc : c'.desc = c.desc)
    (pending : c'.pending ≤ c.pending) : ChannelSound p d c' := by
  obtain ⟨idle, callback, completions, coalesced⟩ := h
  refine ⟨?_, ?_, ?_, ?_⟩
  · rw [phase, desc]; exact idle
  · rw [desc]; exact callback
  · rw [desc]; exact fun pos => completions (by omega)
  · exact fun may => pending.trans (coalesced may)

theorem ChannelSound.submit : ChannelSound p d (submitChannel c) := by
  unfold submitChannel
  split
  · next prepared => exact h.congr (by simp [prepared]) rfl le_rfl
  · exact h

theorem ChannelSound.issue : ChannelSound p d (issueChannel c) := by
  unfold issueChannel
  split
  · next submitted => exact h.congr (by simp [submitted]) rfl le_rfl
  · exact h

theorem ChannelSound.terminate : ChannelSound p d (terminateChannel c) := by
  unfold terminateChannel
  split
  · next active => exact h.congr (by rcases active with e | e | e <;> simp [e]) rfl (Nat.zero_le _)
  · exact h.congr Iff.rfl rfl (Nat.zero_le _)

/-- ADVANCE makes completions pending of a callback descriptor only, and keeps one under coalescing (R382, R322). -/
theorem ChannelSound.advance {x : Desc} (hx : c.desc = some x) : ChannelSound p d (advanceChannel p x c) := by
  obtain ⟨idle, callback, completions, coalesced⟩ := h
  refine ⟨idle, callback, fun pos => ?_, fun may => ?_⟩
  · simp only [advanceChannel, pendingAfter] at pos
    split at pos
    · next done => exact ⟨x, hx, done.2⟩
    · exact completions pos
  · simp only [advanceChannel, pendingAfter, may]
    split
    · exact le_rfl
    · exact coalesced may

end

/-- `Ext.Synchronize` leaves an IDLE channel with nothing (R290). -/
theorem syncChannel_sound (p : Params) (d : Dir) (c : Channel) : ChannelSound p d (syncChannel c) := by
  simp [ChannelSound, syncChannel]

/-- `Ext.PrepCyclic` leaves a channel with its direction's descriptor and no completion (R290, R293). -/
theorem prepChannel_sound {p : Params} {d : Dir} {x : Desc} (hx : x.cb = (d == p.callbackDir)) (c : Channel) :
    ChannelSound p d (prepChannel c x) := by
  simp [ChannelSound, prepChannel, hx]

section
variable {s : State} (h : ChannelsSound s)
include h

theorem ChannelsSound.chan (d : Dir) : ChannelSound s.params d (s.chan d) := by
  cases d
  · exact h.1
  · exact h.2

/-- Replacing one channel by a sound one keeps both sound. -/
theorem ChannelsSound.setChan {d : Dir} {c : Channel} (hc : ChannelSound s.params d c) : ChannelsSound (s.setChan d c) := by
  cases d
  · exact ⟨hc, h.2⟩
  · exact ⟨h.1, hc⟩

theorem ChannelsSound.takeCompletion : ChannelsSound (takeCompletion s) := by
  have taken (d : Dir) : ChannelSound (Machine.takeCompletion s).params d ((Machine.takeCompletion s).chan d) := by
    rw [takeCompletion_params, takeCompletion_chan]
    refine (h.chan d).congr Iff.rfl rfl ?_
    dsimp only
    split <;> omega
  exact ⟨taken .rx, taken .tx⟩

end

/-! ## Every step -/

/-- What every step from `s` keeps, in each state `t` its updates make: the launch parameters, each invariant, a resolved profile, and
`ctx.init_done` once it is set. -/
structure InvariantsKept (s t : State) : Prop where
  params : t.params = s.params
  fifos : FifosBounded s → FifosBounded t
  reserved : ReservedZero s → ReservedZero t
  sync : SyncSettled s → SyncSettled t
  channels : ChannelsSound s → ChannelsSound t
  profileSound : ProfileSound s → ProfileSound t
  resolved : s.ctx.resolved = true → t.ctx.resolved = true ∧ t.ctx.profile = s.ctx.profile
  initDone : s.ctx.initDone = true → t.ctx.initDone = true

theorem InvariantsKept.refl (s : State) : InvariantsKept s s :=
  ⟨rfl, id, id, id, id, id, fun h => ⟨h, rfl⟩, id⟩

section
variable {s t : State} (h : InvariantsKept s t)
include h

/-- A new channel must be sound where the old one is; it is no part of the other invariants. -/
theorem InvariantsKept.setChan {d : Dir} {c : Channel} (hc : ChannelSound t.params d (t.chan d) → ChannelSound t.params d c) :
    InvariantsKept s (t.setChan d c) := by
  have channels (hs : ChannelsSound s) : ChannelsSound (t.setChan d c) :=
    (h.channels hs).setChan (hc ((h.channels hs).chan d))
  cases d
  · exact { h with channels }
  · exact { h with channels }

/-- Only RESOLVE writes the profile, with a bundle of the table, and never again (R210, R213). -/
theorem InvariantsKept.resolve {id : BitVec 8} (unresolved : t.ctx.resolved = false) (hid : id.toNat < 3) :
    InvariantsKept s (t.setCtx { t.ctx with profile := profileBundle t.params id, resolved := true }) :=
  { h with
    profileSound := fun _ _ => ⟨id, hid, rfl⟩
    resolved := fun hs => absurd (h.resolved hs).1 (by simp [unresolved]) }

theorem InvariantsKept.takeCompletion : InvariantsKept s (takeCompletion t) where
  params := by rw [takeCompletion_params, h.params]
  fifos hs := by unfold FifosBounded; rw [takeCompletion_fifo, takeCompletion_params]; exact h.fifos hs
  reserved hs := by unfold ReservedZero; rw [takeCompletion_pr, takeCompletion_params]; exact h.reserved hs
  sync hs := by unfold SyncSettled; rw [takeCompletion_pipe]; exact h.sync hs
  channels hs := (h.channels hs).takeCompletion
  profileSound hs := by unfold ProfileSound; rw [takeCompletion_ctx, takeCompletion_params]; exact h.profileSound hs
  resolved hs := by rw [takeCompletion_ctx]; exact h.resolved hs
  initDone hs := by rw [takeCompletion_ctx]; exact h.initDone hs

theorem InvariantsKept.slotEffect : InvariantsKept s (slotEffect t) where
  params := by rw [slotEffect_params, h.params]
  fifos hs := (h.fifos hs).slotEffect
  reserved hs := (h.reserved hs).slotEffect
  sync hs := by unfold SyncSettled; rw [slotEffect_pipe]; exact h.sync hs
  channels hs := by unfold ChannelsSound; rw [slotEffect_params, slotEffect_dmaRx, slotEffect_dmaTx]; exact h.channels hs
  profileSound hs := by unfold ProfileSound; rw [slotEffect_ctx, slotEffect_params]; exact h.profileSound hs
  resolved hs := by rw [slotEffect_ctx]; exact h.resolved hs
  initDone hs := by rw [slotEffect_ctx]; exact h.initDone hs

end

/-- Every single update keeps each invariant. -/
theorem invariantsKept_keepsStep (s : State) : KeepsStep (InvariantsKept s) where
  inputs _ _ _ _ h := { h with }
  traces _ _ _ h := { h with }
  ctrl _ _ _ h := { h with }
  lastRead _ _ h := { h with }
  sync _ _ h := { h with }
  configured _ _ h := { h with }
  coord _ _ h := { h with }
  timeouts _ _ h := { h with }
  result _ _ h := { h with }
  clkRate _ _ _ h := { h with }
  clk _ _ h := { h with }
  slave _ _ _ h := h.setChan fun hc => hc.congr Iff.rfl rfl le_rfl
  submit _ _ h := h.setChan fun hc => hc.submit
  issue _ _ h := h.setChan fun hc => hc.issue
  terminate _ _ h := h.setChan fun hc => hc.terminate
  synchronize _ _ _ h := h.setChan fun _ => syncChannel_sound _ _ _
  pop _ _ _ he h := { h with fifos := fun hs => (h.fifos hs).pop he }
  rxErr _ h := { h with reserved := fun hs => (h.reserved hs).setRxErr }
  push _ v hroom h := { h with fifos := fun hs => (h.fifos hs).push v hroom }
  cs _ v h := { h with sync := fun hs => (h.sync hs).writeCs v }
  mode _ _ hv h := { h with reserved := fun hs => (h.reserved hs).writeMode hv }
  rxc _ v h := { h with reserved := fun hs => (h.reserved hs).writeRxc v }
  txc _ v h := { h with reserved := fun hs => (h.reserved hs).writeTxc v }
  dreq _ v h := { h with reserved := fun hs => (h.reserved hs).writeDreq v }
  inten _ v h := { h with reserved := fun hs => (h.reserved hs).writeInten v }
  intstc _ v h := { h with reserved := fun hs => (h.reserved hs).clearIntstc v }
  alloc _ _ _ _ _ h := { h with initDone := fun _ => rfl }
  prep _ _ _ hx h := h.setChan fun _ => prepChannel_sound hx _
  profile _ _ hr hid h := h.resolve hr hid
  geom _ _ h := { h with }
  callback _ _ h := h.takeCompletion
  notify _ h := { h with }
  consIdx _ h := { h with }
  cons _ _ _ h := { h with }
  moved _ _ h := { h with }
  pcm _ h := { h with fifos := fun hs => (h.fifos hs).pcmClock, sync := fun hs => (h.sync hs).pcmClock }
  slot _ h := h.slotEffect
  beatRx _ _ _ _ he hx _ h :=
    { h with
      fifos := fun hs => (h.fifos hs).pop he
      channels := fun hs => (h.channels hs).setChan (d := .rx) (((h.channels hs).chan .rx).advance hx) }
  beatTx _ _ hroom hx _ h :=
    { h with
      fifos := fun hs => (h.fifos hs).push _ hroom
      channels := fun hs => (h.channels hs).setChan (d := .tx) (((h.channels hs).chan .tx).advance hx) }
  quiesce _ _ hp h := h.setChan fun hc => hc.congr (by simp [hp]) rfl le_rfl
  envError _ _ _ h := h.setChan fun hc => hc.congr Iff.rfl rfl le_rfl
  envTxw _ h := { h with reserved := fun hs => (h.reserved hs).envTxw }
  envRxr _ h := { h with reserved := fun hs => (h.reserved hs).envRxr }
  store _ _ _ _ _ h := { h with }

theorem step_invariantsKept {s t : State} (e : step s = .next t) : InvariantsKept s t :=
  (invariantsKept_keepsStep s).step (.refl s) e

/-- Settles O55: each of the four invariants is kept by every single update, so by every step. -/
theorem peripheralKept : Obligations.PeripheralKept := by
  intro s t e
  have k := step_invariantsKept e
  exact ⟨k.fifos, k.reserved, k.sync, k.channels⟩

/-- Settles O58: of the single updates only RESOLVE's writes the profile, from an unresolved state and out of the table, and none clears
`ctx.init_done`. -/
theorem profileImmutable : Obligations.ProfileImmutable := by
  intro s t e
  have k := step_invariantsKept e
  exact ⟨k.profileSound, k.resolved, k.initDone⟩

end Sys2Proof.Machine
end

section
/-! SUPPORT. What the steps of the agents other than CTRL answer, said once (R370). -/

namespace Sys2Proof.Machine

/-- What a move of an agent other than CTRL, or of the host, makes of `s` where it does not stop. -/
inductive OtherStep (s : State) : Move → State → Prop
  | stays (mv : Move) : OtherStep s mv s
  | notified : OtherStep s .cons (consAdvance (s.setCtx { s.ctx with notify := false }))
  | indexRead : OtherStep s .cons (consAdvance (s.setCtx { s.ctx with consIdx := some s.ctx.bufIdx }))
  | store (a : Word) (n : AccessSize) (v : Word) (inside : inRegion s a (sizeBytes n) = true) :
    OtherStep s (.consData (.write a n v)) (s.setMem (memWrite s.mem a.toNat (sizeBytes n) v))
  | callback (pending : completionPending s = true) : OtherStep s .irq (takeCompletion s)
  | clock : OtherStep s .pcmClock (pcmClock s)
  | slot : OtherStep s .slot (slotEffect s)
  | beatRx (x : Desc) (e : RxEntry) (rest : List RxEntry) (enabled : beatEnabled .rx s = true) (desc : s.dmaRx.desc = some x)
    (head : s.fifo.rx = e :: rest) (inside : inRegion s (beatAddr x s.dmaRx) 4 = true) :
    OtherStep s (.beat .rx)
      (((s.setFifo { s.fifo with rx := rest }).setMem (memWrite s.mem (beatAddr x s.dmaRx).toNat 4 e.word)).setDmaRx
        (advanceChannel s.params x s.dmaRx))
  | beatTx (x : Desc) (enabled : beatEnabled .tx s = true) (desc : s.dmaTx.desc = some x)
    (inside : inRegion s (beatAddr x s.dmaTx) 4 = true) :
    OtherStep s (.beat .tx)
      ((s.setFifo { s.fifo with tx := s.fifo.tx ++ [memWord s.mem (beatAddr x s.dmaTx).toNat] }).setDmaTx
        (advanceChannel s.params x s.dmaTx))
  | quiesce (d : Dir) (stopping : (s.chan d).phase = .stopping) : OtherStep s (.quiesce d) (quiesceStep d s)
  | envError (d : Dir) (running : (s.chan d).phase = .running) : OtherStep s (.envError d) (envErrorStep d s)
  | envTxw : OtherStep s .envTxw (envTxwStep s)
  | envRxr : OtherStep s .envRxr (envRxrStep s)

theorem consStep_other {s t : State} (e : consStep s = .next t) : OtherStep s .cons t := by
  unfold consStep at e
  split at e
  · cases e; exact .stays _
  · split at e
    · next i hd =>
      have ha : cmdAgent i = .cons := (decodeFor_agent hd).1
      obtain rfl | ⟨rfl, -⟩ | ⟨-, rfl⟩ | ⟨-, rfl⟩ := exec_not_ctrl_cases (by rw [ha]; decide) e
      · exact .stays _
      · cases ha
      · exact .notified
      · exact .indexRead
    · cases e

theorem consData_other {s t : State} {acc : DataAccess} (e : consData acc s = .next t) : OtherStep s (.consData acc) t := by
  simp only [consData] at e
  split at e
  · split at e
    · split at e
      · next inside =>
        cases acc with
        | read a n => cases e; exact .stays _
        | write a n v => cases e; exact .store a n v inside
      · cases e
    · cases e
  · cases e

theorem beatStep_other {s t : State} {d : Dir} (enabled : beatEnabled d s = true) (e : beatStep d s = .next t) :
    OtherStep s (.beat d) t := by
  unfold beatStep at e
  split at e
  · cases e; exact .stays _
  · next x desc =>
    cases d with
    | rx =>
      simp only [beatRx] at e
      split at e
      · cases e; exact .stays _
      · next y rest head =>
        split at e <;> cases e
        next inside => exact .beatRx x y rest enabled desc head inside
    | tx =>
      simp only [beatTx] at e
      split at e <;> cases e
      next inside => exact .beatTx x enabled desc inside

/-- Every move but CTRL's that does not stop is one of the steps listed. -/
theorem agentStep_other {mv : Move} {s t : State} (hmv : mv ≠ .ctrl) (e : agentStep mv s = .next t) : OtherStep s mv t := by
  cases mv with
  | ctrl => exact absurd rfl hmv
  | cons => exact consStep_other e
  | consData acc => exact consData_other e
  | irq =>
    simp only [agentStep] at e
    split at e
    · next pending =>
      simp only [exec, execPeriodCallback, if_pos pending] at e
      cases e; exact .callback pending
    · cases e; exact .stays _
  | pcmClock =>
    simp only [agentStep] at e
    split at e <;> cases e
    · exact .clock
    · exact .stays _
  | slot =>
    simp only [agentStep, slotStep] at e
    split at e
    · split at e <;> cases e
      exact .slot
    · cases e; exact .stays _
  | beat d =>
    simp only [agentStep] at e
    split at e
    · next enabled => exact beatStep_other enabled e
    · cases e; exact .stays _
  | quiesce d =>
    simp only [agentStep] at e
    split at e <;> cases e
    · next stopping => exact .quiesce d (by simpa using stopping)
    · exact .stays _
  | envError d =>
    simp only [agentStep] at e
    split at e <;> cases e
    · next running => exact .envError d (by simpa using running)
    · exact .stays _
  | envTxw =>
    simp only [agentStep] at e
    split at e <;> cases e
    · exact .envTxw
    · exact .stays _
  | envRxr =>
    simp only [agentStep] at e
    split at e <;> cases e
    · exact .envRxr
    · exact .stays _
  | hostRead r =>
    simp only [agentStep, hostStep] at e
    split at e <;> cases e
    exact .stays _

end Sys2Proof.Machine
end

section
/-! SUPPORT. The phases of the DMA channels (R71) and the sequences that prepare them (R291): O56. -/

namespace Sys2Proof.Machine

/-! ## Phases (R71) -/

/-- The phase stays or makes one transition of R71's table. -/
def PhaseMoves (c c' : Channel) : Prop := c'.phase = c.phase ∨ PhaseStep c.phase c'.phase

/-- Both channels' phases do. -/
def PhasesMove (s t : State) : Prop := ∀ d, PhaseMoves (s.chan d) (t.chan d)

theorem PhasesMove.of_chan_eq {s t : State} (h : ∀ d, t.chan d = s.chan d) : PhasesMove s t :=
  fun d => .inl (by rw [h d])

theorem PhasesMove.trans_eq {s t u : State} (h : PhasesMove s t) (hu : ∀ d, u.chan d = t.chan d) : PhasesMove s u := by
  intro d
  rw [hu d]
  exact h d

theorem PhasesMove.eq_trans {s t u : State} (ht : ∀ d, t.chan d = s.chan d) (h : PhasesMove t u) : PhasesMove s u := by
  intro d
  rw [← ht d]
  exact h d

/-- Where one channel is replaced, its phase alone may move. -/
theorem PhasesMove.setChan {s u : State} {d : Dir} {c : Channel} (hu : ∀ e, u.chan e = s.chan e) (hc : PhaseMoves (s.chan d) c) :
    PhasesMove s (u.setChan d c) := by
  intro e
  by_cases he : e = d
  · subst he; rw [State.setChan_chan]; exact hc
  · rw [State.setChan_chan_ne _ _ he, hu e]; exact .inl rfl

theorem phaseMoves_prep {c : Channel} (idle : c.phase = .idle) (x : Desc) : PhaseMoves c (prepChannel c x) :=
  .inr (by simp [idle, prepChannel, PhaseStep])

theorem phaseMoves_submit (c : Channel) : PhaseMoves c (submitChannel c) := by
  unfold submitChannel
  split
  · next prepared => exact .inr (by simp [prepared, PhaseStep])
  · exact .inl rfl

theorem phaseMoves_issue (c : Channel) : PhaseMoves c (issueChannel c) := by
  unfold issueChannel
  split
  · next submitted => exact .inr (by simp [submitted, PhaseStep])
  · exact .inl rfl

theorem phaseMoves_terminate (c : Channel) : PhaseMoves c (terminateChannel c) := by
  unfold terminateChannel
  split
  · next active => exact .inr (by rcases active with e | e | e <;> simp [e, PhaseStep])
  · exact .inl rfl

/-- `Ext.Synchronize` returns on a channel that is STOPPED or IDLE already (R290). -/
theorem phaseMoves_synchronize {c : Channel} (h : quiesced c = true) : PhaseMoves c (syncChannel c) := by
  simp only [quiesced, Bool.or_eq_true, beq_iff_eq] at h
  rcases h with stopped | idle
  · exact .inr (by simp [stopped, syncChannel, PhaseStep])
  · exact .inl (by simp [idle, syncChannel])

/-- The other agents leave CTRL as it is, and move a phase by QUIESCE alone (R383). -/
theorem OtherStep.phases {mv : Move} {s t : State} (h : OtherStep s mv t) :
    t.ctrl = s.ctrl ∧ PhasesMove s t ∧ ∀ d, (s.chan d).phase = .idle → (t.chan d).phase = .idle := by
  have same {t : State} (ht : ∀ d, (t.chan d).phase = (s.chan d).phase) :
      PhasesMove s t ∧ ∀ d, (s.chan d).phase = .idle → (t.chan d).phase = .idle :=
    ⟨fun d => .inl (ht d), fun d idle => (ht d).trans idle⟩
  cases h with
  | stays => exact ⟨rfl, same fun _ => rfl⟩
  | notified => exact ⟨rfl, same fun d => by cases d <;> rfl⟩
  | indexRead => exact ⟨rfl, same fun d => by cases d <;> rfl⟩
  | store => exact ⟨rfl, same fun d => by simp⟩
  | callback => exact ⟨takeCompletion_ctrl s, same fun d => by rw [takeCompletion_chan]⟩
  | clock => exact ⟨rfl, same fun d => by simp⟩
  | slot => exact ⟨slotEffect_ctrl s, same fun d => by simp⟩
  | beatRx => exact ⟨rfl, same fun d => by cases d <;> rfl⟩
  | beatTx => exact ⟨rfl, same fun d => by cases d <;> rfl⟩
  | quiesce d stopping =>
    refine ⟨quiesceStep_ctrl d s, .setChan (fun _ => rfl) (.inr (by simp [stopping, PhaseStep])), fun e idle => ?_⟩
    have ne : e ≠ d := by rintro rfl; simp [idle] at stopping
    rw [quiesceStep, State.setChan_chan_ne _ _ ne]
    exact idle
  | envError d =>
    refine ⟨envErrorStep_ctrl d s, same fun e => ?_⟩
    by_cases he : e = d
    · subst he; simp [envErrorStep]
    · rw [envErrorStep, State.setChan_chan_ne _ _ he]
  | envTxw => exact ⟨rfl, same fun d => by simp⟩
  | envRxr => exact ⟨rfl, same fun d => by simp⟩

/-! ## Sequences that prepare IDLE channels only (R291) -/

/-- The items DMA_PREPARE's sequence is made of (R291). -/
def isPrepare : Micro → Bool
  | .guardPrepare _ => true
  | .slaveConfig _ => true
  | .prepCyclic _ => true
  | _ => false

/-- The sequence prepares no channel. -/
def preparesNone (todo : List Micro) : Bool := todo.all fun mi => !isPrepare mi

theorem isPrepare_cases {mi : Micro} (h : isPrepare mi = true) :
    (∃ d, mi = .guardPrepare d) ∨ (∃ d, mi = .slaveConfig d) ∨ ∃ d, mi = .prepCyclic d := by
  unfold isPrepare at h
  split at h
  · exact .inl ⟨_, rfl⟩
  · exact .inr (.inl ⟨_, rfl⟩)
  · exact .inr (.inr ⟨_, rfl⟩)
  · cases h

theorem prepGuarded_cons {mi : Micro} (h : isPrepare mi = false) (rest : List Micro) :
    prepGuarded (mi :: rest) = prepGuarded rest := by
  cases mi
  case guardPrepare | slaveConfig | prepCyclic => cases h
  all_goals rfl

theorem prepGuarded_append {more : List Micro} (h : preparesNone more = true) (rest : List Micro) :
    prepGuarded (more ++ rest) = prepGuarded rest := by
  induction more with
  | nil => rfl
  | cons mi more ih =>
    simp only [preparesNone, List.all_cons, Bool.and_eq_true, Bool.not_eq_true'] at h
    rw [List.cons_append, prepGuarded_cons h.1, ih h.2]

theorem prepGuarded_of_preparesNone {todo : List Micro} (h : preparesNone todo = true) : prepGuarded todo = true := by
  have append := prepGuarded_append h []
  rwa [List.append_nil] at append

/-- After a guard comes the preparation it is for, or nothing it is needed for. -/
theorem prepGuarded_guard {d : Dir} {rest : List Micro} (h : prepGuarded (.guardPrepare d :: rest) = true) :
    prepGuarded rest = true ∨ ∃ rest', rest = .slaveConfig d :: .prepCyclic d :: rest' ∧ prepGuarded rest' = true := by
  rw [prepGuarded.eq_def] at h
  split at h
  · next e => cases e
  · next e =>
    cases e
    simp only [Bool.and_eq_true, beq_iff_eq] at h
    obtain ⟨⟨rfl, rfl⟩, guarded⟩ := h
    exact .inr ⟨_, rfl, guarded⟩
  · cases h
  · cases h
  · next e => cases e; exact .inl h

/-- CTRL may run the sequence from `s`: what it prepares is guarded first, or the descriptor comes next and its channel is IDLE. -/
def TodoSafe (s : State) (todo : List Micro) : Prop :=
  prepGuarded todo = true ∨ ∃ d rest, todo = .prepCyclic d :: rest ∧ (s.chan d).phase = .idle ∧ prepGuarded rest = true

theorem prepareSafe_of_atStart {s : State} (h : s.ctrl.m = 0) : PrepareSafe s := fun hm => absurd h hm

/-- What other agents leave of CTRL and of IDLE channels keeps the invariant. -/
theorem PrepareSafe.congr {s t : State} (h : PrepareSafe s) (hc : t.ctrl = s.ctrl)
    (idle : ∀ d, (s.chan d).phase = .idle → (t.chan d).phase = .idle) : PrepareSafe t := by
  intro hm
  rw [hc] at hm ⊢
  rcases h hm with guarded | ⟨d, rest, todo, hd, guarded⟩
  · exact .inl guarded
  · exact .inr ⟨d, rest, todo, idle d hd, guarded⟩

/-! ## Register-only items -/

theorem quiet_chan {mi : Micro} {s t : State} (h : quiet mi s = .act t) (d : Dir) : t.chan d = s.chan d :=
  State.chan_congr (congrArg State.dmaRx (quiet_frame h)) (congrArg State.dmaTx (quiet_frame h)) d

theorem runQuiet_access_chan {n : Nat} {todo rest : List Micro} {mi : Micro} {s u : State}
    (h : runQuiet n todo s = .access u mi rest) (d : Dir) : u.chan d = s.chan d :=
  State.chan_congr (congrArg State.dmaRx (runQuiet_frame h)) (congrArg State.dmaTx (runQuiet_frame h)) d

/-- A sequence that ends leaves CTRL at the start of a command and the channels as they are. -/
theorem runQuiet_ended {n : Nat} {todo : List Micro} {s t : State} (h : runQuiet n todo s = .ended t) :
    t.ctrl.m = 0 ∧ ∀ d, t.chan d = s.chan d := by
  induction todo generalizing s with
  | nil => cases h
  | cons mi rest ih =>
    unfold runQuiet at h
    split at h
    · cases h
    · cases h; exact ⟨rfl, endCommand_chan _ _ _⟩
    · cases h; exact ⟨rfl, endCommand_chan _ _ _⟩
    · next e =>
      injection e with e1 e2
      subst e1 e2
      split at h
      · next u act =>
        obtain ⟨start, same⟩ := ih h
        exact ⟨start, fun d => (same d).trans (quiet_chan act d)⟩
      · cases h
      · cases h

/-- How a sequence comes to its access: past a register-only item, or at once. -/
theorem runQuiet_cons_access {n : Nat} {x mi : Micro} {xs rest : List Micro} {s u : State}
    (h : runQuiet n (x :: xs) s = .access u mi rest) :
    (∃ t, quiet x s = .act t ∧ runQuiet n xs t = .access u mi rest) ∨ (quiet x s = .access ∧ u = s ∧ mi = x ∧ rest = xs) := by
  unfold runQuiet at h
  split at h
  · cases h
  · cases h
  · cases h
  · next e =>
    injection e with e1 e2
    subst e1 e2
    split at h
    · next t act => exact .inl ⟨t, act, h⟩
    · cases h
    · next access => cases h; exact .inr ⟨access, rfl, rfl, rfl⟩

/-- The guard of DMA_PREPARE passes on an IDLE channel only (R291). -/
theorem quiet_guardPrepare {d : Dir} {s t : State} (h : quiet (.guardPrepare d) s = .act t) :
    t = s ∧ (s.chan d).phase = .idle := by
  simp only [quiet, guardThat] at h
  split at h
  · next ok =>
    cases h
    simp only [Bool.and_eq_true, beq_iff_eq] at ok
    exact ⟨rfl, ok.1⟩
  · cases h

/-- CTRL may make the access `mi` from `s` with `rest` after it: it is none of DMA_PREPARE's, or its channel is IDLE. -/
inductive AccessSafe (s : State) : Micro → List Micro → Prop
  | other {mi : Micro} {rest : List Micro} (hmi : isPrepare mi = false) (guarded : prepGuarded rest = true) : AccessSafe s mi rest
  | slave {d : Dir} {rest : List Micro} (idle : (s.chan d).phase = .idle) (guarded : prepGuarded rest = true) :
    AccessSafe s (.slaveConfig d) (.prepCyclic d :: rest)
  | desc {d : Dir} {rest : List Micro} (idle : (s.chan d).phase = .idle) (guarded : prepGuarded rest = true) :
    AccessSafe s (.prepCyclic d) rest

/-- A guarded sequence comes to an access CTRL may make: a guard it passes on the way is the guard of what comes next. -/
theorem runQuiet_guarded {n : Nat} {todo rest : List Micro} {mi : Micro} {s u : State} (guarded : prepGuarded todo = true)
    (h : runQuiet n todo s = .access u mi rest) : AccessSafe u mi rest := by
  induction todo generalizing s with
  | nil => cases h
  | cons x xs ih =>
    by_cases hx : isPrepare x = true
    · obtain ⟨d, rfl⟩ | ⟨d, rfl⟩ | ⟨d, rfl⟩ := isPrepare_cases hx
      · rcases runQuiet_cons_access h with ⟨t, act, h'⟩ | ⟨access, -⟩
        · obtain ⟨rfl, idle⟩ := quiet_guardPrepare act
          rcases prepGuarded_guard guarded with hxs | ⟨rest', rfl, hrest⟩
          · exact ih hxs h'
          · rw [runQuiet_access rfl] at h'
            cases h'
            exact .slave idle hrest
        · simp only [quiet, guardThat] at access
          split at access <;> cases access
      · cases guarded
      · cases guarded
    · rw [Bool.not_eq_true] at hx
      rw [prepGuarded_cons hx] at guarded
      rcases runQuiet_cons_access h with ⟨t, -, h'⟩ | ⟨-, rfl, rfl, rfl⟩
      · exact ih guarded h'
      · exact .other hx guarded

theorem runQuiet_safe {n : Nat} {todo rest : List Micro} {mi : Micro} {s u : State} (safe : TodoSafe s todo)
    (h : runQuiet n todo s = .access u mi rest) : AccessSafe u mi rest := by
  rcases safe with guarded | ⟨d, xs, rfl, idle, guarded⟩
  · exact runQuiet_guarded guarded h
  · rw [runQuiet_access rfl] at h
    cases h
    exact .desc idle guarded

/-! ## Accesses -/

theorem readOnBus_chan {r : Reg} {s t : State} {v : Word} (e : readOnBus r s = .ok v t) (d : Dir) : t.chan d = s.chan d := by
  cases r <;> simp only [readOnBus, fifoPop] at e
  case fifoA =>
    split at e
    · split at e <;> cases e <;> simp
    · cases e
  all_goals cases e; simp

theorem regRead_chan {r : Reg} {s t : State} {v : Word} (e : regRead r s = .ok v t) (d : Dir) : t.chan d = s.chan d := by
  unfold regRead at e
  split at e
  · rw [readOnBus_chan e, afterBus_chan]
  · cases e

theorem writeOnBus_chan {r : Reg} {s t : State} {v : Word} (e : writeOnBus r v s = .ok () t) (d : Dir) : t.chan d = s.chan d := by
  cases r <;> simp only [writeOnBus, fifoPush] at e
  case fifoA =>
    split at e
    · split at e <;> cases e; simp
    · cases e
  case modeA => split at e <;> cases e; simp
  case gray => cases e
  all_goals cases e; simp

theorem regWrite_chan {r : Reg} {s t : State} {v : Word} (e : regWrite r v s = .ok () t) (d : Dir) : t.chan d = s.chan d := by
  unfold regWrite at e
  split at e
  · rw [writeOnBus_chan e, afterBus_chan]
  · cases e

/-- The access, made from `s`, moves the phases as R71 allows, and the items it asks for prepare no channel. -/
def Act.PhasesMove (s : State) : Act → Prop
  | .done t more => Machine.PhasesMove s t ∧ preparesNone more = true
  | .replace t todo => Machine.PhasesMove s t ∧ preparesNone todo = true
  | .hold => True
  | .fault _ => True
  | .refused _ => True

theorem actRead_phases {r : Reg} {s : State} {next : Word → State → Act}
    (hn : ∀ v t, (∀ d, t.chan d = s.chan d) → (next v t).PhasesMove s) : (actRead r s next).PhasesMove s := by
  unfold actRead
  split
  · next e => exact hn _ _ (regRead_chan e)
  · trivial
  · trivial

theorem actWrite_phases {r : Reg} {v : Word} {s : State} {more : List Micro} (hm : preparesNone more = true) :
    (actWrite r v s fun t => .done t more).PhasesMove s := by
  unfold actWrite
  split
  · next e => exact ⟨.of_chan_eq (regWrite_chan e), hm⟩
  · trivial
  · trivial

theorem syncTimedOut_preparesNone (inStart : Bool) (s : State) : preparesNone (syncTimedOut inStart s) = true := by
  cases inStart <;> rfl

theorem syncAgain_phases {s t : State} (h : ∀ d, t.chan d = s.chan d) (inStart : Bool) (iters : Word) {pre : List Micro}
    (hpre : preparesNone pre = true) : (syncAgain inStart iters pre t).PhasesMove s := by
  have append {more : List Micro} (hm : preparesNone more = true) : preparesNone (pre ++ more) = true := by
    simp only [preparesNone, List.all_append, Bool.and_eq_true] at hpre hm ⊢
    exact ⟨hpre, hm⟩
  unfold syncAgain
  split
  · exact ⟨.of_chan_eq h, append (syncTimedOut_preparesNone _ _)⟩
  · exact ⟨.of_chan_eq h, append rfl⟩

theorem prepareFailed_preparesNone (d : Dir) (e : Code) (s : State) : preparesNone (prepareFailed d e s) = true := by
  unfold prepareFailed; split <;> rfl

theorem submitFailed_preparesNone (unwind : Bool) : preparesNone (submitFailed unwind) = true := by
  cases unwind <;> rfl

/-- An external call replaces one channel, after its answer is taken and the call is logged. -/
theorem called_chan (e : Event) (s : State) (d : Dir) : (logEvent e (afterAnswer s)).chan d = s.chan d := by simp

/-- Every access moves the phases as R71 allows, the descriptor's if its channel is IDLE. -/
theorem access_phases {mi : Micro} {s : State} (hprep : ∀ d, mi = .prepCyclic d → (s.chan d).phase = .idle) :
    (access mi s).PhasesMove s := by
  have stays : (Act.done s []).PhasesMove s := ⟨.of_chan_eq fun _ => rfl, rfl⟩
  cases mi with
  | readReg r => exact actRead_phases fun v t ht => ⟨.of_chan_eq fun d => by simp [ht], rfl⟩
  | writeReg r v => exact actWrite_phases rfl
  | updRead r mask val => exact actRead_phases fun v t ht => ⟨.of_chan_eq ht, rfl⟩
  | updWrite r old mask val =>
    simp only [access]; split
    · exact actWrite_phases rfl
    · exact stays
  | clkSetRate => exact ⟨.of_chan_eq (called_chan _ s), rfl⟩
  | clkEnable => exact ⟨.of_chan_eq fun d => by simp, rfl⟩
  | alloc =>
    simp only [access]; split
    · exact ⟨.of_chan_eq fun d => by simp, rfl⟩
    · split
      · exact ⟨.of_chan_eq fun d => by simp, rfl⟩
      · trivial
  | slaveConfig d =>
    simp only [access]; split
    · exact ⟨.setChan (called_chan _ s) (.inl (by simp)), rfl⟩
    · exact ⟨.of_chan_eq (called_chan _ s), prepareFailed_preparesNone _ _ _⟩
  | prepCyclic d =>
    simp only [access]; split
    · rw [called_chan]; exact ⟨.setChan (called_chan _ s) (phaseMoves_prep (hprep d rfl) _), rfl⟩
    · exact ⟨.of_chan_eq (called_chan _ s), prepareFailed_preparesNone _ _ _⟩
  | submit d unwind =>
    simp only [access]; split
    · rw [called_chan]; exact ⟨.setChan (called_chan _ s) (phaseMoves_submit _), rfl⟩
    · exact ⟨.of_chan_eq (called_chan _ s), submitFailed_preparesNone _⟩
  | issue d =>
    simp only [access, logEvent_chan]
    exact ⟨.setChan (logEvent_chan _ s) (phaseMoves_issue _), rfl⟩
  | terminate d =>
    simp only [access]; split
    · rw [called_chan]; exact ⟨.setChan (called_chan _ s) (phaseMoves_terminate _), rfl⟩
    · exact ⟨.of_chan_eq fun d => by simp, rfl⟩
  | synchronize d =>
    simp only [access, logEvent_chan]; split
    · next hq => exact ⟨.setChan (logEvent_chan _ s) (phaseMoves_synchronize hq), rfl⟩
    · trivial
  | prime n =>
    cases n with
    | zero => exact stays
    | succ n => exact actWrite_phases rfl
  | clearSave tx rx => exact actRead_phases fun v t ht => ⟨.of_chan_eq ht, rfl⟩
  | clearEcho => exact actRead_phases fun v t ht => ⟨.of_chan_eq ht, rfl⟩
  | clearPoll e n =>
    cases n with
    | zero => exact stays
    | succ n => exact actRead_phases fun v t ht => ⟨.of_chan_eq ht, by split <;> rfl⟩
  | syncStatus inStart =>
    refine actRead_phases fun v t ht => ?_
    split
    · exact ⟨.of_chan_eq ht, rfl⟩
    · exact syncAgain_phases ht _ _ rfl
  | syncPush => exact actWrite_phases rfl
  | syncPop inStart =>
    refine actRead_phases fun w t ht => ?_
    unfold syncPopped
    split
    · exact ⟨.of_chan_eq ht, rfl⟩
    · exact syncAgain_phases ht _ _ rfl
  | syncInit => exact stays
  | countRead => exact stays
  | countPop _ => exact stays
  | retain _ => exact stays
  | noteRate _ => exact stays
  | guardResolved => exact stays
  | guardConfigured => exact stays
  | guardPrepare _ => exact stays
  | guardSubmit => exact stays
  | setConfigured _ => exact stays
  | setCoord _ => exact stays
  | ret _ => exact stays
  | retFirst => exact stays

/-- So every access CTRL may make does: a descriptor it prepares is for an IDLE channel. -/
theorem AccessSafe.phases {s : State} {mi : Micro} {rest : List Micro} (safe : AccessSafe s mi rest) :
    (access mi s).PhasesMove s :=
  access_phases fun d hd => by
    subst hd
    cases safe with
    | other hmi => cases hmi
    | desc idle => exact idle

/-- A slave configuration that is accepted asks for no item and leaves every phase as it is (R291). -/
theorem access_slaveConfig_done {d : Dir} {s t : State} {more : List Micro} (h : access (.slaveConfig d) s = .done t more) :
    more = [] ∧ ∀ e, (t.chan e).phase = (s.chan e).phase := by
  simp only [access] at h
  split at h
  · cases h
    refine ⟨rfl, fun e => ?_⟩
    by_cases he : e = d
    · subst he; simp
    · rw [State.setChan_chan_ne _ _ he, called_chan]
  · cases h

/-- An access CTRL may make, if it is done, moves the phases as R71 allows and leaves a sequence CTRL may run. -/
theorem access_done_safe {s t : State} {mi : Micro} {rest more : List Micro} (safe : AccessSafe s mi rest)
    (h : access mi s = .done t more) : PhasesMove s t ∧ TodoSafe t (more ++ rest) := by
  have phases := safe.phases
  rw [h] at phases
  obtain ⟨moves, none⟩ := phases
  cases safe with
  | other _ guarded => exact ⟨moves, .inl ((prepGuarded_append none _).trans guarded)⟩
  | desc _ guarded => exact ⟨moves, .inl ((prepGuarded_append none _).trans guarded)⟩
  | slave idle guarded =>
    obtain ⟨rfl, same⟩ := access_slaveConfig_done h
    exact ⟨moves, .inr ⟨_, _, rfl, (same _).trans idle, guarded⟩⟩

/-- One that replaces the sequence does, too: what it puts there prepares no channel. -/
theorem access_replace_safe {s t : State} {mi : Micro} {rest todo : List Micro} (safe : AccessSafe s mi rest)
    (h : access mi s = .replace t todo) : PhasesMove s t ∧ TodoSafe t todo := by
  have phases := safe.phases
  rw [h] at phases
  exact ⟨phases.1, .inl (prepGuarded_of_preparesNone phases.2)⟩

/-! ## CTRL's steps -/

theorem goOn_safe {n : Nat} {todo : List Micro} {s t : State} (safe : TodoSafe s todo) (e : goOn n todo s = .next t) :
    PrepareSafe t ∧ ∀ d, t.chan d = s.chan d := by
  unfold goOn at e
  split at e
  · next ended =>
    cases e
    obtain ⟨start, same⟩ := runQuiet_ended ended
    exact ⟨prepareSafe_of_atStart start, same⟩
  · cases e
    have same (d : Dir) : (s.setCtrl { s.ctrl with m := s.ctrl.m + 1, todo := todo }).chan d = s.chan d := State.setCtrl_chan _ _ d
    refine ⟨fun _ => ?_, same⟩
    simp only [same]
    exact safe

/-- One micro-operation of a sequence CTRL may run. -/
theorem microStep_safe {n : Nat} {todo : List Micro} {s t : State} (safe : TodoSafe s todo) (hs : PrepareSafe s)
    (e : microStep n todo s = .next t) : PrepareSafe t ∧ PhasesMove s t := by
  have unchanged : PrepareSafe s ∧ PhasesMove s s := ⟨hs, .of_chan_eq fun _ => rfl⟩
  unfold microStep at e
  split at e
  · next ended =>
    cases e
    obtain ⟨start, same⟩ := runQuiet_ended ended
    exact ⟨prepareSafe_of_atStart start, .of_chan_eq same⟩
  · cases e
  · cases e; exact unchanged
  · next u mi rest ready =>
    have accessSafe := runQuiet_safe safe ready
    have before := runQuiet_access_chan ready
    split at e
    · next done =>
      obtain ⟨moves, left⟩ := access_done_safe accessSafe done
      obtain ⟨ht, after⟩ := goOn_safe left e
      exact ⟨ht, (moves.trans_eq after).eq_trans before⟩
    · next replaced =>
      obtain ⟨moves, left⟩ := access_replace_safe accessSafe replaced
      obtain ⟨ht, after⟩ := goOn_safe left e
      exact ⟨ht, (moves.trans_eq after).eq_trans before⟩
    · cases e; exact unchanged
    · cases e
    · cases e

/-- A command of CTRL begins as `commandBegin` says (R47). -/
theorem exec_eq_runCommand {i : Instr} (ha : cmdAgent i = .ctrl) (s : State) :
    exec i s = runCommand (operandWords i) (commandBegin i) s := by
  cases i
  case periodCallback | waitCompletion | readBufIdx => cases ha
  all_goals rfl

/-- BUFFERS_SETUP prepares both channels, each after its guard, and nothing else does (R332). -/
theorem buffersSeq_prepGuarded (cc : Word) (s : State) : prepGuarded (buffersSeq cc s) = true := by
  have none : preparesNone (clearRegistersSeq ++ configureSeq s ++ enableSeq s.params.regmap ++ clearFifosSeq true true ++
      [.prime (s.params.dreqTx + cc.toNat)] ++ submitSeq true ++ [.setCoord .configured, .ret .ok]) = true := by
    unfold configureSeq clockSeq
    split <;> rfl
  have tail := prepGuarded_of_preparesNone none
  simpa [buffersSeq, prepareSeq, prepGuarded] using tail

/-- Every command begins with a sequence that guards what it prepares. -/
theorem commandBegin_prepGuarded {i : Instr} {s t : State} {todo : List Micro} (h : commandBegin i s = .run t todo) :
    prepGuarded todo = true := by
  cases i with
  | regRead off =>
    simp only [commandBegin, beginRegRead, beginRegister] at h
    split at h <;> cases h; rfl
  | regWrite off v =>
    simp only [commandBegin, beginRegWrite, beginRegister] at h
    split at h <;> cases h; rfl
  | regUpdateBits off m v =>
    simp only [commandBegin, beginRegUpdateBits, beginRegister] at h
    split at h <;> cases h; rfl
  | resolve b =>
    simp only [commandBegin, beginResolve] at h
    split at h <;> cases h <;> rfl
  | configure =>
    cases h
    refine prepGuarded_of_preparesNone ?_
    unfold configureSeq clockSeq
    split <;> rfl
  | dmaPrepare d => cases h; cases d <;> rfl
  | init b =>
    simp only [commandBegin, beginInit, badState] at h
    split at h
    · split at h <;> cases h <;> rfl
    · cases h
  | buffersSetup pf cc =>
    simp only [commandBegin, beginBuffers, badState] at h
    split at h
    · split at h <;> cases h
      · exact buffersSeq_prepGuarded cc s
      · rfl
    · cases h
  | stop =>
    cases h
    unfold stopSeq
    split <;> rfl
  | start =>
    simp only [commandBegin, beginStart, badState] at h
    split at h <;> cases h
    unfold startSeq
    split <;> rfl
  | exit =>
    simp only [commandBegin, beginExit, badState] at h
    split at h <;> cases h; rfl
  | clearRegisters => cases h; rfl
  | enable => cases h; rfl
  | clearFifos tx rx => cases h; rfl
  | primeTxFifo n => cases h; rfl
  | syncFifos tx rx => cases h; rfl
  | dmaSubmit => cases h; rfl
  | dmaTerminate => cases h; rfl
  | periodCallback => cases h; rfl
  | waitCompletion => cases h; rfl
  | readBufIdx => cases h; rfl

/-- A command's beginning leaves CTRL's micro-step and the channels alone. -/
theorem commandBegin_keeps {i : Instr} {s t : State} {todo : List Micro} (h : commandBegin i s = .run t todo) :
    t.ctrl.m = s.ctrl.m ∧ ∀ d, t.chan d = s.chan d := by
  have frame := commandBegin_frame h
  exact ⟨congrArg (·.ctrl.m) frame, fun d => State.chan_congr (congrArg State.dmaRx frame) (congrArg State.dmaTx frame) d⟩

/-- One micro-operation of a command of CTRL: the first of its own sequence, or the next of the one it left. -/
theorem exec_ctrl_safe {i : Instr} {s t : State} (ha : cmdAgent i = .ctrl) (hs : PrepareSafe s) (e : exec i s = .next t) :
    PrepareSafe t ∧ PhasesMove s t := by
  by_cases hm : s.ctrl.m = 0
  · rw [exec_eq_runCommand ha] at e
    cases hb : commandBegin i s with
    | fault f => rw [runCommand_fault hm hb] at e; cases e
    | run u todo =>
      rw [runCommand_begin hm hb] at e
      obtain ⟨start, same⟩ := commandBegin_keeps hb
      obtain ⟨ht, moves⟩ := microStep_safe (.inl (commandBegin_prepGuarded hb)) (prepareSafe_of_atStart (start.trans hm)) e
      exact ⟨ht, moves.eq_trans same⟩
  · rw [exec_goesOn ha hm] at e
    exact microStep_safe (hs hm) hs e

theorem ctrlStep_safe {s t : State} (hs : PrepareSafe s) (e : ctrlStep s = .next t) : PrepareSafe t ∧ PhasesMove s t := by
  unfold ctrlStep at e
  split at e
  · cases e; exact ⟨hs, .of_chan_eq fun _ => rfl⟩
  · split at e
    · next i hd => exact exec_ctrl_safe (decodeFor_agent hd).1 hs e
    · cases e

/-- Settles O56: CTRL moves a phase by the one access of its step, which prepares a channel only right after its guard; of the other agents
QUIESCE alone moves one. -/
theorem phaseTransitions : Obligations.PhaseTransitions := by
  intro s t e hs
  have moved (d : Dir) : (s.setInputs (moveOf s.inputs).2).chan d = s.chan d := State.setInputs_chan _ _ d
  have hs' : PrepareSafe (s.setInputs (moveOf s.inputs).2) := hs.congr rfl fun d idle => by rwa [moved d]
  have key : PrepareSafe t ∧ PhasesMove (s.setInputs (moveOf s.inputs).2) t := by
    have step := step_next e
    by_cases hmv : (moveOf s.inputs).1 = .ctrl
    · rw [hmv] at step
      exact ctrlStep_safe hs' step
    · obtain ⟨ctrl, moves, idle⟩ := (agentStep_other hmv step).phases
      exact ⟨hs'.congr ctrl idle, moves⟩
  exact ⟨key.1, key.2.eq_trans moved⟩

end Sys2Proof.Machine
end

section
/-! SUPPORT. Reset (R80, R81), and the step of an agent whose words decode (R47, R48, R390): O8, O9 and O6. -/

namespace Sys2Proof.Machine

/-- Settles O8: every register of the reset state, and the faults of its two registers without a value, by evaluation (R80). -/
theorem resetState : Obligations.ResetState := by
  unfold Obligations.ResetState
  have channels : ∀ d, State.reset.chan d = ⟨.idle, none, none, 0#32, 0, false⟩ := by
    intro d; cases d <;> rfl
  have unwritten : agentStep (.hostRead .lastRead) State.reset = .fault (.unwritten .host .lastRead) ∧
      agentStep (.hostRead .consIdx) State.reset = .fault (.unwritten .host .consIdx) := ⟨rfl, rfl⟩
  exact ⟨rfl, ⟨rfl, rfl, rfl, rfl⟩, rfl, ⟨rfl, rfl⟩, ⟨rfl, rfl⟩, ⟨rfl, rfl, rfl, rfl⟩, unwritten, ⟨rfl, rfl, rfl, rfl⟩, channels,
    rfl, ⟨rfl, rfl, rfl⟩, rfl, rfl, rfl⟩

/-- A channel as it is at bind time is sound, whatever the parameters (R80). -/
theorem resetChannel_sound (p : Params) (d : Dir) : ChannelSound p d resetChannel := by
  simp [ChannelSound, resetChannel]

/-- At reset CTRL is at the start of a command, nothing is resolved, no geometry is valid and no channel has a descriptor: what each
invariant guards is not there (R80). -/
theorem reset_guards_off :
    AtStart State.reset ∧ State.reset.ctx.state ≠ .synchronizing ∧ State.reset.ctx.resolved = false ∧
      State.reset.ctx.geomValid = false ∧ ∀ d, (State.reset.chan d).desc = none :=
  ⟨rfl, by decide, rfl, rfl, fun d => by cases d <;> rfl⟩

/-- Settles O9: the clauses on values by evaluation, the guarded ones because no guard of them holds at reset. -/
theorem invariantsAtReset : Obligations.InvariantsAtReset := by
  unfold Obligations.InvariantsAtReset
  obtain ⟨start, state, resolved, geom, desc⟩ := reset_guards_off
  have clean : LaunchClean State.reset := ⟨rfl, rfl, rfl, rfl, rfl, rfl, rfl, rfl, rfl, rfl⟩
  have bounded : FifosBounded State.reset := ⟨by decide, by decide⟩
  have reserved : ReservedZero State.reset := by unfold ReservedZero; decide
  have sync : SyncSettled State.reset := ⟨by decide, fun _ => rfl⟩
  have channels : ChannelsSound State.reset := ⟨resetChannel_sound _ _, resetChannel_sound _ _⟩
  have region : RegionSound State.reset :=
    ⟨by decide, fun h => by simp [geom] at h, fun d x h => by simp [desc] at h, fun h => absurd start h⟩
  exact ⟨clean, ⟨rfl, rfl, rfl⟩, reset_mem_wf, bounded, reserved, sync, channels, fun h => absurd start h,
    ⟨fun _ => state, fun h => absurd start h⟩, fun h => by simp [resolved] at h, region⟩

/-- Without a stop a step is that of the agent that moves, its move taken (R370). -/
theorem step_noFault {s : State} (h : NoFault s) :
    step s = agentStep (moveOf s.inputs).1 (s.setInputs (moveOf s.inputs).2) := by
  obtain ⟨hf, hr, hl⟩ := h
  simp only [step, hl, hr, hf]

/-- CTRL runs what the words at its pointer decode to (R47). -/
theorem ctrlStep_decoded {s : State} {i : Instr} (h : decodeFor .ctrl (ctrlWords s) = .ok i) : ctrlStep s = exec i s := by
  unfold ctrlStep
  split
  · next e => rw [e] at h; cases h
  · next e => rw [e] at h; simp only [h]

/-- CONS runs what the words at its pointer decode to (R48). -/
theorem consStep_decoded {s : State} {i : Instr} (h : decodeFor .cons (consWords s) = .ok i) : consStep s = exec i s := by
  unfold consStep
  split
  · next e => rw [e] at h; cases h
  · next e => rw [e] at h; simp only [h]

/-- Settles O6: the agent that moves runs its decoded command, IRQ the callback its pending completion enables. -/
theorem stepRunsDecoded : Obligations.StepRunsDecoded := by
  intro s hs
  rw [step_noFault hs]
  refine ⟨fun i hm hd => ?_, fun i hm hd => ?_, fun hm hp => ?_⟩
  · rw [hm]; exact ctrlStep_decoded hd
  · rw [hm]; exact consStep_decoded hd
  · rw [hm]
    have pending : completionPending (s.setInputs (moveOf s.inputs).2) = true := by simpa [completionPending] using hp
    exact if_pos pending

end Sys2Proof.Machine
end

section
/-! SUPPORT. What each agent's step leaves of memory, of the Device Context and of a channel's position, said once; with it O53 and O54
(R38, R39, R100, R111, R116, R120). -/

namespace Sys2Proof.Machine

/-- A step of CTRL keeps what its commands keep. -/
theorem ctrlStep_kept {s t : State} (e : ctrlStep s = .next t) : CtrlKept s t := by
  unfold ctrlStep at e
  split at e
  · cases e; exact .refl s
  · split at e
    · next hd => exact exec_ctrl_kept (decodeFor_agent hd).1 e
    · cases e

/-- Of the other agents' steps only a DMA_RX beat and a consumer's write store (R111, R120). -/
theorem OtherStep.mem_cases {mv : Move} {s t : State} (h : OtherStep s mv t) :
    t.mem = s.mem ∨
      ((mv = .beat .rx ∨ ∃ a n v, mv = .consData (.write a n v)) ∧ ∃ a n v, t.mem = memWrite s.mem a n v) := by
  cases h with
  | store a n v => exact .inr ⟨.inr ⟨a, n, v, rfl⟩, _, _, _, rfl⟩
  | beatRx => exact .inr ⟨.inl rfl, _, _, _, rfl⟩
  | callback => exact .inl (takeCompletion_mem s)
  | slot => exact .inl (slotEffect_mem s)
  | quiesce d => exact .inl (quiesceStep_mem d s)
  | envError d => exact .inl (envErrorStep_mem d s)
  | stays | notified | indexRead | clock | beatTx | envTxw | envRxr => exact .inl rfl

/-- Of the other agents' steps only CONS's two commands and PERIOD_CALLBACK write the Device Context (R320, R350, R352). -/
theorem OtherStep.ctx_cases {mv : Move} {s t : State} (h : OtherStep s mv t) :
    t.ctx = s.ctx ∨ t.ctx = { s.ctx with notify := false } ∨ t.ctx = { s.ctx with consIdx := some s.ctx.bufIdx } ∨
      (mv = .irq ∧ completionPending s = true ∧ t = takeCompletion s) := by
  cases h with
  | notified => exact .inr (.inl rfl)
  | indexRead => exact .inr (.inr (.inl rfl))
  | callback pending => exact .inr (.inr (.inr ⟨rfl, pending, rfl⟩))
  | slot => exact .inl (slotEffect_ctx s)
  | quiesce d => exact .inl (quiesceStep_ctx d s)
  | envError d => exact .inl (envErrorStep_ctx d s)
  | stays | store | clock | beatRx | beatTx | envTxw | envRxr => exact .inl rfl

/-- Any step keeps memory, or is a DMA_RX beat or a consumer's write, which stores. -/
theorem step_mem_cases {s t : State} (e : step s = .next t) :
    t.mem = s.mem ∨
      (((moveOf s.inputs).1 = .beat .rx ∨ ∃ a n v, (moveOf s.inputs).1 = .consData (.write a n v)) ∧
        ∃ a n v, t.mem = memWrite s.mem a n v) := by
  have moved := step_next e
  by_cases hmv : (moveOf s.inputs).1 = .ctrl
  · rw [hmv] at moved
    exact .inl (ctrlStep_kept moved).mem
  · exact (agentStep_other hmv moved).mem_cases

/-- Settles O54: a step that changes memory at all is a store, and a store keeps the canonical form. -/
theorem memoryKept : Obligations.MemoryKept := by
  intro s t e
  rcases step_mem_cases e with same | ⟨mover, a, n, v, stored⟩
  · exact ⟨fun wf => by rwa [MemCanonical, same], .inl same⟩
  · exact ⟨fun wf => by rw [MemCanonical, stored]; exact memWrite_wf wf a n v, .inr mover⟩

/-- Settles O53: CTRL's commands keep both registers, and of the other agents' steps PERIOD_CALLBACK alone writes them. -/
theorem onlyCallbackWritesIndex : Obligations.OnlyCallbackWritesIndex := by
  intro s t e changed
  have moved := step_next e
  by_cases hmv : (moveOf s.inputs).1 = .ctrl
  · rw [hmv] at moved
    have kept := ctrlStep_kept moved
    exact absurd changed (by simp [kept.bufIdx, kept.irqCount])
  · rcases (agentStep_other hmv moved).ctx_cases with same | same | same | ⟨irq, pending, rfl⟩
    · exact absurd changed (by simp [same])
    · exact absurd changed (by simp [same])
    · exact absurd changed (by simp [same])
    · have pos : 0 < (s.chan s.params.callbackDir).pending := by simpa [completionPending] using pending
      exact ⟨irq, pos, by simp [takeCompletion_ctx], by simp [takeCompletion_ctx], by simp [takeCompletion_ctx]⟩

end Sys2Proof.Machine
end

section
/-! SUPPORT. The buffer region (R101 to R103, R293, R336, R337): geometry and descriptors lie in it, every step keeps that, and only the
consumer's accesses can leave it: O59. -/

namespace Sys2Proof.Machine

/-! ## Addresses inside the region -/

/-- Geometry that R337's check accepts gives two buffers of whole words in the region (R103). -/
theorem geometryOf_fits {r : Region} {pf cc : Word} (bound : r.phys.toNat + r.size.toNat ≤ 2 ^ 32)
    (ok : geometryOk pf cc r.size = true) : GeomFits r (geometryOf r.phys pf cc) := by
  simp only [geometryOk, Bool.and_eq_true, bne_iff_ne, decide_eq_true_eq] at ok
  obtain ⟨⟨hpf, hcc⟩, total⟩ := ok
  simp only [layoutBytes, periodBytes] at total
  have words : 0 < pf.toNat * cc.toNat :=
    Nat.mul_pos (Nat.pos_of_ne_zero fun h => hpf (BitVec.eq_of_toNat_eq h))
      (Nat.pos_of_ne_zero fun h => hcc (BitVec.eq_of_toNat_eq h))
  have small := r.size.isLt
  have len : (2#32 * (pf * cc * 4#32)).toNat = 8 * (pf.toNat * cc.toNat) := by
    simp only [BitVec.toNat_mul, BitVec.toNat_ofNat, Nat.reducePow, Nat.reduceMod]
    omega
  have tx : (r.phys + 2#32 * (pf * cc * 4#32)).toNat = r.phys.toNat + 8 * (pf.toNat * cc.toNat) := by
    rw [BitVec.toNat_add, len]
    omega
  simp only [GeomFits, InBuffer, geometryOf, len, tx]
  omega

section
variable {r : Region} {x : Desc} {c : Channel} (h : DescFits r x c.pos) (bound : r.phys.toNat + r.size.toNat ≤ 2 ^ 32)
include h

include bound in
/-- The bus address of a beat does not wrap, and its four bytes lie in the region (R102, R380, R381). -/
theorem DescFits.beat : r.phys.toNat ≤ (beatAddr x c).toNat ∧ (beatAddr x c).toNat + 4 ≤ r.phys.toNat + r.size.toNat := by
  obtain ⟨⟨low, high⟩, lenWords, posWords, lt⟩ := h
  have addr : (beatAddr x c).toNat = x.base.toNat + c.pos.toNat := by
    rw [beatAddr, BitVec.toNat_add]
    omega
  omega

/-- ADVANCE goes to the next word, or back to the first (R382). -/
theorem DescFits.advance (p : Params) : DescFits r x (advanceChannel p x c).pos := by
  obtain ⟨buffer, lenWords, posWords, lt⟩ := h
  have small := x.bufLen.isLt
  have next : (c.pos + 4#32).toNat = c.pos.toNat + 4 := by
    rw [BitVec.toNat_add, BitVec.toNat_ofNat]
    omega
  simp only [advanceChannel]
  split
  · exact ⟨buffer, lenWords, rfl, by simp; omega⟩
  · next wraps =>
    have ne : c.pos.toNat + 4 ≠ x.bufLen.toNat := fun e => wraps (BitVec.eq_of_toNat_eq (next.trans e))
    exact ⟨buffer, lenWords, by omega, by omega⟩

end

/-- A prepared descriptor is a buffer of the geometry, and its channel is at the first word (R290, R291). -/
theorem GeomFits.desc {r : Region} {g : Geometry} (h : GeomFits r g) (p : Params) (d : Dir) : DescFits r (descOf p g d) 0#32 := by
  obtain ⟨rx, tx, words, pos⟩ := h
  cases d
  · exact ⟨rx, words, rfl, pos⟩
  · exact ⟨tx, words, rfl, pos⟩

/-! ## What the updates of CTRL's commands keep -/

/-- In `t`, which CTRL's updates make from `s`, the invariant's clauses on the Device Context and the channels hold, and the geometry is
valid as it is in `s`. -/
structure RegionKept (s t : State) : Prop where
  bound : t.ctx.region.phys.toNat + t.ctx.region.size.toNat ≤ 2 ^ 32
  geom : t.ctx.geomValid = true → t.ctx.initDone = true ∧ GeomFits t.ctx.region t.ctx.geom
  desc : ∀ d x, (t.chan d).desc = some x → t.ctx.initDone = true ∧ DescFits t.ctx.region x (t.chan d).pos
  valid : t.ctx.geomValid = s.ctx.geomValid

theorem RegionSound.kept {s : State} (h : RegionSound s) : RegionKept s s := by
  obtain ⟨bound, geom, desc, -⟩ := h
  exact ⟨bound, geom, desc, rfl⟩

section
variable {s t : State} (h : RegionKept s t)
include h

/-- A channel may be replaced by one whose descriptor, if it has one, fits. -/
theorem RegionKept.setChan {d : Dir} {c : Channel}
    (hc : ∀ x, c.desc = some x → t.ctx.initDone = true ∧ DescFits t.ctx.region x c.pos) : RegionKept s (t.setChan d c) where
  bound := by rw [State.setChan_ctx]; exact h.bound
  geom := by rw [State.setChan_ctx]; exact h.geom
  valid := by rw [State.setChan_ctx]; exact h.valid
  desc e x hx := by
    rw [State.setChan_ctx]
    by_cases he : e = d
    · subst he
      rw [State.setChan_chan] at hx ⊢
      exact hc x hx
    · rw [State.setChan_chan_ne _ _ he] at hx ⊢
      exact h.desc e x hx

/-- INIT allocates where nothing is allocated: there is then no valid geometry and no descriptor to leave behind (R331, R336). -/
theorem RegionKept.alloc {virt phys size : Word} (fresh : t.ctx.initDone = false) (fits : phys.toNat + size.toNat ≤ 2 ^ 32) :
    RegionKept s (t.setCtx { t.ctx with region := ⟨virt, phys, size⟩, initDone := true }) where
  bound := fits
  geom hv := absurd (h.geom hv).1 (by simp [fresh])
  desc d x hx := by
    rw [State.setCtx_chan] at hx
    exact absurd (h.desc d x hx).1 (by simp [fresh])
  valid := h.valid

theorem RegionKept.prepare (valid : t.ctx.geomValid = true) (p : Params) (d : Dir) :
    RegionKept s (t.setChan d (prepChannel (t.chan d) (descOf p t.ctx.geom d))) := by
  obtain ⟨done, fits⟩ := h.geom valid
  refine h.setChan fun x hx => ?_
  cases hx
  exact ⟨done, fits.desc p d⟩

end

theorem submitChannel_keeps (c : Channel) : (submitChannel c).desc = c.desc ∧ (submitChannel c).pos = c.pos := by
  unfold submitChannel; split <;> exact ⟨rfl, rfl⟩

theorem issueChannel_keeps (c : Channel) : (issueChannel c).desc = c.desc ∧ (issueChannel c).pos = c.pos := by
  unfold issueChannel; split <;> exact ⟨rfl, rfl⟩

theorem terminateChannel_keeps (c : Channel) : (terminateChannel c).desc = c.desc ∧ (terminateChannel c).pos = c.pos := by
  unfold terminateChannel; split <;> exact ⟨rfl, rfl⟩

/-- A channel may be replaced by one at the same place of the same descriptor. -/
theorem RegionKept.setChan_same {s t : State} (h : RegionKept s t) {d : Dir} {c : Channel}
    (hc : c.desc = (t.chan d).desc ∧ c.pos = (t.chan d).pos) : RegionKept s (t.setChan d c) := by
  refine h.setChan fun x hx => ?_
  rw [hc.2]
  exact h.desc d x (hc.1 ▸ hx)

/-- All updates of CTRL's accesses and register-only items, but the allocator's and the descriptor's, keep it. -/
theorem regionKept_keeps (s : State) : Keeps (RegionKept s) where
  inputs _ _ _ _ h := { h with }
  traces _ _ _ h := { h with }
  ctrl _ _ _ h := { h with }
  lastRead _ _ h := { h with }
  sync _ _ h := { h with }
  configured _ _ h := { h with }
  coord _ _ h := { h with }
  timeouts _ _ h := { h with }
  result _ _ h := { h with }
  clkRate _ _ _ h := { h with }
  clk _ _ h := { h with }
  slave _ _ _ h := h.setChan_same ⟨rfl, rfl⟩
  submit _ _ h := h.setChan_same (submitChannel_keeps _)
  issue _ _ h := h.setChan_same (issueChannel_keeps _)
  terminate _ _ h := h.setChan_same (terminateChannel_keeps _)
  synchronize _ _ _ h := h.setChan fun _ hx => by cases hx
  pop _ _ _ _ h := { h with }
  rxErr _ h := { h with }
  push _ _ _ h := { h with }
  cs _ _ h := { h with }
  mode _ _ _ h := { h with }
  rxc _ _ h := { h with }
  txc _ _ h := { h with }
  dreq _ _ h := { h with }
  inten _ _ h := { h with }
  intstc _ _ h := { h with }

/-! ## What a sequence still has to do -/

/-- The item neither allocates the region nor prepares a descriptor in it. -/
def isPlain : Micro → Bool
  | .alloc => false
  | .prepCyclic _ => false
  | _ => true

/-- The fault is F_MEM_RANGE (R102, R414). -/
def isRange : Fault → Bool
  | .memRange _ _ => true
  | _ => false

/-- CTRL may leave the sequence to be done: it does not allocate, and prepares descriptors of a valid geometry only (the last clause of
`RegionSound`). -/
def TodoFits (s : State) (todo : List Micro) : Prop :=
  .alloc ∉ todo ∧ ((∃ d, .prepCyclic d ∈ todo) → s.ctx.geomValid = true)

theorem TodoFits.of_plain {todo : List Micro} (h : todo.all isPlain = true) (s : State) : TodoFits s todo := by
  rw [List.all_eq_true] at h
  exact ⟨fun mem => absurd (h _ mem) (by decide), fun ⟨d, mem⟩ => absurd (h _ mem) (by simp [isPlain])⟩

theorem TodoFits.append {s : State} {more rest : List Micro} (hm : TodoFits s more) (hr : TodoFits s rest) :
    TodoFits s (more ++ rest) := by
  simp only [TodoFits, List.mem_append, not_or]
  refine ⟨⟨hm.1, hr.1⟩, fun ⟨d, mem⟩ => ?_⟩
  rcases mem with mem | mem
  · exact hm.2 ⟨d, mem⟩
  · exact hr.2 ⟨d, mem⟩

/-- A sequence CTRL may leave it may leave wherever the geometry is as valid. -/
theorem TodoFits.congr {s t : State} {todo : List Micro} (h : TodoFits s todo) (valid : t.ctx.geomValid = s.ctx.geomValid) :
    TodoFits t todo :=
  ⟨h.1, fun prep => by rw [valid]; exact h.2 prep⟩

theorem RegionSound.todo {s : State} (h : RegionSound s) (hm : s.ctrl.m ≠ 0) : TodoFits s s.ctrl.todo := by
  obtain ⟨-, -, -, todo⟩ := h
  exact todo hm

/-- The invariant is the clauses on the region and what CTRL has still to do. -/
theorem RegionKept.sound {s t : State} (h : RegionKept s t) (todo : t.ctrl.m ≠ 0 → TodoFits t t.ctrl.todo) : RegionSound t :=
  ⟨h.bound, h.geom, h.desc, todo⟩

/-- CTRL may make the access `mi` from `s` with `rest` after it: it allocates only where nothing is, and prepares only descriptors of a
valid geometry. -/
structure AccessFits (s : State) (mi : Micro) (rest : List Micro) : Prop where
  fresh : mi = .alloc → s.ctx.initDone = false
  valid : ∀ d, mi = .prepCyclic d → s.ctx.geomValid = true
  todo : TodoFits s rest

/-- The access a sequence comes to, and what follows it, are the sequence's last items. -/
theorem runQuiet_suffix {n : Nat} {todo rest : List Micro} {mi : Micro} {s u : State} (h : runQuiet n todo s = .access u mi rest) :
    mi :: rest <:+ todo := by
  induction todo generalizing s with
  | nil => cases h
  | cons x xs ih =>
    rcases runQuiet_cons_access h with ⟨t, -, h'⟩ | ⟨-, -, rfl, rfl⟩
    · exact (ih h').trans (List.suffix_cons x xs)
    · exact List.suffix_refl _

/-- A sequence CTRL may leave comes to an access CTRL may make. -/
theorem TodoFits.access {n : Nat} {todo rest : List Micro} {mi : Micro} {s u : State} (fits : TodoFits s todo) (hs : RegionSound s)
    (h : runQuiet n todo s = .access u mi rest) : AccessFits u mi rest := by
  have kept := (regionKept_keeps s).runQuiet (n := n) (todo := todo) hs.kept
  rw [h] at kept
  have sub : ∀ y ∈ mi :: rest, y ∈ todo := (runQuiet_suffix h).subset
  have valid (d : Dir) (mem : .prepCyclic d ∈ mi :: rest) : u.ctx.geomValid = true := by
    rw [kept.valid]
    exact fits.2 ⟨d, sub _ mem⟩
  refine ⟨?_, ?_, fun mem => fits.1 (sub _ (List.mem_cons_of_mem _ mem)), fun ⟨d, mem⟩ => valid d (List.mem_cons_of_mem _ mem)⟩
  · rintro rfl
    exact absurd (sub _ List.mem_cons_self) fits.1
  · rintro d rfl
    exact valid d List.mem_cons_self

/-- The guard of DMA_PREPARE passes on a valid geometry only (R291). -/
theorem quiet_guardPrepare_valid {d : Dir} {s t : State} (h : quiet (.guardPrepare d) s = .act t) :
    t = s ∧ s.ctx.geomValid = true := by
  simp only [quiet, guardThat] at h
  split at h
  · next ok =>
    cases h
    rw [Bool.and_eq_true] at ok
    exact ⟨rfl, ok.2⟩
  · cases h

/-- DMA_PREPARE comes to its first access past its guard: its descriptor is one of a valid geometry (R291). -/
theorem prepareSeq_access {n : Nat} {rest : List Micro} {mi : Micro} {s u : State} {d : Dir} (hs : RegionSound s)
    (h : runQuiet n (prepareSeq d ++ [.ret .ok]) s = .access u mi rest) : AccessFits u mi rest := by
  rcases runQuiet_cons_access h with ⟨t, act, h'⟩ | ⟨access, -⟩
  · obtain ⟨rfl, valid⟩ := quiet_guardPrepare_valid act
    exact TodoFits.access ⟨by simp, fun _ => valid⟩ hs h'
  · simp only [quiet, guardThat] at access
    split at access <;> cases access

/-! ## What an access asks for, and the faults of CTRL's commands -/

/-- What an access answers neither asks for an allocation or a descriptor nor is F_MEM_RANGE. -/
def Act.Plain : Act → Prop
  | .done _ more => more.all isPlain = true
  | .replace _ todo => todo.all isPlain = true
  | .hold => True
  | .fault f => isRange f = false
  | .refused _ => True

theorem readOnBus_fault {r : Reg} {s : State} {f : Fault} (e : readOnBus r s = .fault f) : isRange f = false := by
  cases r <;> simp only [readOnBus, fifoPop] at e
  case fifoA =>
    split at e
    · split at e <;> cases e
    · cases e; rfl
  all_goals cases e

theorem regRead_fault {r : Reg} {s : State} {f : Fault} (e : regRead r s = .fault f) : isRange f = false := by
  unfold regRead at e
  split at e
  · exact readOnBus_fault e
  · cases e; rfl

theorem writeOnBus_fault {r : Reg} {v : Word} {s : State} {f : Fault} (e : writeOnBus r v s = .fault f) : isRange f = false := by
  cases r <;> simp only [writeOnBus, fifoPush] at e
  case fifoA =>
    split at e
    · split at e <;> cases e; rfl
    · cases e; rfl
  case modeA => split at e <;> cases e
  all_goals cases e

theorem regWrite_fault {r : Reg} {v : Word} {s : State} {f : Fault} (e : regWrite r v s = .fault f) : isRange f = false := by
  unfold regWrite at e
  split at e
  · exact writeOnBus_fault e
  · cases e; rfl

theorem actRead_plain {r : Reg} {s : State} {next : Word → State → Act} (hn : ∀ v t, (next v t).Plain) :
    (actRead r s next).Plain := by
  unfold actRead
  split
  · exact hn _ _
  · next e => exact regRead_fault e
  · trivial

theorem actWrite_plain {r : Reg} {v : Word} {s : State} {next : State → Act} (hn : ∀ t, (next t).Plain) :
    (actWrite r v s next).Plain := by
  unfold actWrite
  split
  · exact hn _
  · next e => exact regWrite_fault e
  · trivial

theorem syncAgain_plain {pre : List Micro} (hpre : pre.all isPlain = true) (inStart : Bool) (iters : Word) (s : State) :
    (syncAgain inStart iters pre s).Plain := by
  unfold syncAgain
  split
  · have timedOut : (syncTimedOut inStart s).all isPlain = true := by cases inStart <;> rfl
    simp only [Act.Plain, List.all_append, hpre, timedOut, Bool.and_self]
  · simp only [Act.Plain, List.all_append, hpre, Bool.true_and]
    rfl

theorem prepareFailed_plain (d : Dir) (e : Code) (s : State) : (prepareFailed d e s).all isPlain = true := by
  unfold prepareFailed; split <;> rfl

theorem access_plain (mi : Micro) (s : State) : (access mi s).Plain := by
  cases mi with
  | readReg r => exact actRead_plain fun _ _ => rfl
  | writeReg r v => exact actWrite_plain fun _ => rfl
  | updRead r mask val => exact actRead_plain fun _ _ => rfl
  | updWrite r old mask val =>
    simp only [access]; split
    · exact actWrite_plain fun _ => rfl
    · rfl
  | alloc =>
    simp only [access]; split
    · rfl
    · split
      · rfl
      · trivial
  | slaveConfig d =>
    simp only [access]; split
    · rfl
    · exact prepareFailed_plain _ _ _
  | prepCyclic d =>
    simp only [access]; split
    · rfl
    · exact prepareFailed_plain _ _ _
  | submit d unwind =>
    simp only [access]; split
    · rfl
    · cases unwind <;> rfl
  | terminate d => simp only [access]; split <;> rfl
  | synchronize d =>
    simp only [access]; split
    · rfl
    · trivial
  | prime n =>
    cases n with
    | zero => rfl
    | succ n => exact actWrite_plain fun _ => rfl
  | clearSave tx rx => exact actRead_plain fun _ _ => rfl
  | clearEcho => exact actRead_plain fun _ _ => rfl
  | clearPoll e n =>
    cases n with
    | zero => rfl
    | succ n => exact actRead_plain fun _ _ => by dsimp only [Act.Plain]; split <;> rfl
  | syncStatus inStart =>
    refine actRead_plain fun _ _ => ?_
    split
    · rfl
    · exact syncAgain_plain rfl _ _ _
  | syncPush => exact actWrite_plain fun _ => rfl
  | syncPop inStart =>
    refine actRead_plain fun _ _ => ?_
    unfold syncPopped
    split
    · rfl
    · exact syncAgain_plain rfl _ _ _
  | clkSetRate | clkEnable | issue => rfl
  | syncInit | countRead | countPop | retain | noteRate => rfl
  | guardResolved | guardConfigured | guardPrepare | guardSubmit => rfl
  | setConfigured | setCoord | ret | retFirst => rfl

theorem quiet_fault {mi : Micro} {s : State} {f : Fault} (h : quiet mi s = .fault f) : isRange f = false := by
  cases mi <;> simp only [quiet, guardThat] at h
  case guardResolved | guardConfigured | guardPrepare | guardSubmit => split at h <;> cases h; rfl
  case prime | clearPoll => split at h <;> cases h
  all_goals cases h

theorem runQuiet_fault {n : Nat} {todo : List Micro} {s : State} {f : Fault} (h : runQuiet n todo s = .fault f) :
    isRange f = false := by
  induction todo generalizing s with
  | nil => cases h
  | cons x xs ih =>
    unfold runQuiet at h
    split at h
    · cases h
    · cases h
    · cases h
    · next e =>
      injection e with e1 e2
      subst e1 e2
      split at h
      · exact ih h
      · next stop => cases h; exact quiet_fault stop
      · cases h

theorem goOn_fault {n : Nat} {todo : List Micro} {s : State} {f : Fault} : goOn n todo s ≠ .fault f := by
  unfold goOn; split <;> simp

theorem microStep_fault {n : Nat} {todo : List Micro} {s : State} {f : Fault} (e : microStep n todo s = .fault f) :
    isRange f = false := by
  unfold microStep at e
  split at e
  · cases e
  · next stop => cases e; exact runQuiet_fault stop
  · cases e
  · next u mi rest _ =>
    have plain := access_plain mi u
    split at e
    · exact absurd e goOn_fault
    · exact absurd e goOn_fault
    · cases e
    · next stop => cases e; rw [stop] at plain; exact plain
    · cases e

theorem resolveProfile_fault {b : BitVec 8} {s : State} {f : Fault} (h : resolveProfile b s = .fault f) : isRange f = false := by
  unfold resolveProfile at h
  split at h
  · cases h
  · split at h
    · split at h <;> cases h; rfl
    · cases h

theorem beginRegister_fault {off : BitVec 8} {todo : Reg → List Micro} {s : State} {f : Fault}
    (h : beginRegister off todo s = .fault f) : isRange f = false := by
  unfold beginRegister at h
  split at h <;> cases h; rfl

theorem commandBegin_fault {i : Instr} {s : State} {f : Fault} (h : commandBegin i s = .fault f) : isRange f = false := by
  cases i with
  | regRead off => exact beginRegister_fault h
  | regWrite off v => exact beginRegister_fault h
  | regUpdateBits off m v => exact beginRegister_fault h
  | resolve b =>
    simp only [commandBegin, beginResolve] at h
    split at h <;> cases h
    next stop => exact resolveProfile_fault stop
  | init b =>
    simp only [commandBegin, beginInit, badState] at h
    split at h
    · split at h <;> cases h
      next stop => exact resolveProfile_fault stop
    · cases h; rfl
  | buffersSetup pf cc =>
    simp only [commandBegin, beginBuffers, badState] at h
    split at h
    · split at h <;> cases h
    · cases h; rfl
  | start =>
    simp only [commandBegin, beginStart, badState] at h
    split at h <;> cases h; rfl
  | exit =>
    simp only [commandBegin, beginExit, badState] at h
    split at h <;> cases h; rfl
  | clearRegisters | configure | enable | clearFifos | primeTxFifo | syncFifos | dmaPrepare | dmaSubmit | dmaTerminate => cases h
  | stop | periodCallback | waitCompletion | readBufIdx => cases h

/-- No command raises F_MEM_RANGE. -/
theorem exec_fault {i : Instr} {s : State} {f : Fault} (e : exec i s = .fault f) : isRange f = false := by
  by_cases ha : cmdAgent i = .ctrl
  · rw [exec_eq_runCommand ha] at e
    unfold runCommand at e
    split at e
    · split at e
      · exact microStep_fault e
      · next stop => cases e; exact commandBegin_fault stop
    · exact microStep_fault e
  cases i with
  | periodCallback =>
    simp only [exec, execPeriodCallback] at e
    split at e <;> cases e
  | waitCompletion =>
    simp only [exec, execWaitCompletion] at e
    split at e <;> cases e
  | readBufIdx => cases e
  | _ => exact absurd rfl ha

/-! ## One micro-operation of CTRL -/

/-- An access CTRL may make keeps the region's clauses. -/
theorem AccessFits.kept {s u : State} {mi : Micro} {rest : List Micro} (fits : AccessFits u mi rest) (h : RegionKept s u) :
    (access mi u).All (RegionKept s) := by
  refine (regionKept_keeps s).access h (fun halloc t virt phys size ht hctx _ _ _ _ hok => ?_) fun d hprep t ht hctx _ _ _ _ => ?_
  · simp only [allocOk, Bool.and_eq_true, decide_eq_true_eq] at hok
    exact ht.alloc (by rw [hctx]; exact fits.fresh halloc) hok.2
  · rw [← hctx]
    exact ht.prepare (by rw [hctx]; exact fits.valid d hprep) _ d

theorem goOn_regionSound {n : Nat} {todo : List Micro} {s u t : State} (kept : RegionKept s u) (fits : TodoFits u todo)
    (e : goOn n todo u = .next t) : RegionSound t := by
  have after := (regionKept_keeps s).runQuiet (n := n) (todo := todo) kept
  unfold goOn at e
  split at e
  · next ended =>
    rw [ended] at after
    cases e
    exact after.sound fun hm => absurd (runQuiet_ended ended).1 hm
  · cases e
    refine RegionKept.sound (s := s) ?_ fun _ => fits
    exact (regionKept_keeps s).ctrl u _ rfl kept

/-- One micro-operation of a sequence that comes to an access CTRL may make. -/
theorem microStep_regionSound {n : Nat} {todo : List Micro} {s t : State} (hs : RegionSound s)
    (ready : ∀ u mi rest, runQuiet n todo s = .access u mi rest → AccessFits u mi rest) (e : microStep n todo s = .next t) :
    RegionSound t := by
  have before := (regionKept_keeps s).runQuiet (n := n) (todo := todo) hs.kept
  unfold microStep at e
  split at e
  · next ended =>
    rw [ended] at before
    cases e
    exact before.sound fun hm => absurd (runQuiet_ended ended).1 hm
  · cases e
  · cases e; exact hs
  · next u mi rest accessed =>
    rw [accessed] at before
    have fits := ready u mi rest accessed
    have after := fits.kept before
    have plain := access_plain mi u
    split at e
    · next done =>
      rw [done] at after plain
      have valid := after.valid.trans before.valid.symm
      exact goOn_regionSound after (.append (.of_plain plain _) (fits.todo.congr valid)) e
    · next replaced =>
      rw [replaced] at after plain
      exact goOn_regionSound after (.of_plain plain _) e
    · cases e; exact hs
    · cases e
    · cases e

/-! ## How a command begins -/

/-- The registers of the region and the geometry are the same. -/
structure SameRegion (c c' : Ctx) : Prop where
  region : c'.region = c.region
  initDone : c'.initDone = c.initDone
  geom : c'.geom = c.geom
  valid : c'.geomValid = c.geomValid

theorem SameRegion.refl (c : Ctx) : SameRegion c c := ⟨rfl, rfl, rfl, rfl⟩

/-- The invariant, from a state with the same region and geometry whose channels have the same descriptors at places that fit. -/
theorem RegionSound.congr {s t : State} (hs : RegionSound s) (same : SameRegion s.ctx t.ctx)
    (chan : ∀ d x, (t.chan d).desc = some x →
      (s.chan d).desc = some x ∧ (DescFits s.ctx.region x (s.chan d).pos → DescFits s.ctx.region x (t.chan d).pos))
    (todo : t.ctrl.m ≠ 0 → TodoFits t t.ctrl.todo) : RegionSound t := by
  obtain ⟨bound, geom, desc, -⟩ := hs
  refine ⟨?_, ?_, fun d x hx => ?_, todo⟩
  · rw [same.region]; exact bound
  · rw [same.region, same.initDone, same.geom, same.valid]; exact geom
  · obtain ⟨hx', moves⟩ := chan d x hx
    obtain ⟨done, fits⟩ := desc d x hx'
    rw [same.region, same.initDone]
    exact ⟨done, moves fits⟩

/-- How a command that begins in `s` at `t` with a sequence treats the region: most commands ignore it. -/
inductive BeginFits (s t : State) : List Micro → Prop
  | plain {todo : List Micro} (same : SameRegion s.ctx t.ctx) (plain : todo.all isPlain = true) : BeginFits s t todo
  | prepare (d : Dir) (same : SameRegion s.ctx t.ctx) : BeginFits s t (prepareSeq d ++ [.ret .ok])
  | alloc (same : SameRegion s.ctx t.ctx) (fresh : s.ctx.initDone = false) : BeginFits s t [.alloc, .ret .ok]
  | buffers (pf cc : Word) (done : s.ctx.initDone = true) (ok : geometryOk pf cc s.ctx.region.size = true)
    (ctx : t.ctx = { s.ctx with geom := geometryOf s.ctx.region.phys pf cc, geomValid := true }) : BeginFits s t (buffersSeq cc s)

theorem resolveProfile_sameRegion {b : BitVec 8} {s t : State} (h : resolveProfile b s = .ok t) : SameRegion s.ctx t.ctx := by
  unfold resolveProfile at h
  split at h
  · cases h
  · split at h
    · split at h <;> cases h; exact .refl _
    · cases h; exact ⟨rfl, rfl, rfl, rfl⟩

theorem configureSeq_plain (s : State) : (configureSeq s ++ [Micro.ret .ok]).all isPlain = true := by
  unfold configureSeq clockSeq; split <;> rfl

theorem beginRegister_fits {off : BitVec 8} {seq : Reg → List Micro} {s t : State} {todo : List Micro}
    (plain : ∀ r, (seq r).all isPlain = true) (h : beginRegister off seq s = .run t todo) : BeginFits s t todo := by
  unfold beginRegister at h
  split at h <;> cases h
  exact .plain (.refl _) (plain _)

theorem commandBegin_fits {i : Instr} {s t : State} {todo : List Micro} (h : commandBegin i s = .run t todo) :
    BeginFits s t todo := by
  cases i with
  | regRead off => exact beginRegister_fits (fun _ => rfl) h
  | regWrite off v => exact beginRegister_fits (fun _ => rfl) h
  | regUpdateBits off m v => exact beginRegister_fits (fun _ => rfl) h
  | resolve b =>
    simp only [commandBegin, beginResolve] at h
    split at h <;> cases h
    · next resolved => exact .plain (resolveProfile_sameRegion resolved) rfl
    · exact .plain (.refl _) rfl
  | configure => cases h; exact .plain (.refl _) (configureSeq_plain s)
  | dmaPrepare d => cases h; exact .prepare d (.refl _)
  | init b =>
    simp only [commandBegin, beginInit, badState] at h
    split at h
    · next guard =>
      split at h <;> cases h
      · next resolved => exact .alloc (resolveProfile_sameRegion resolved) guard.2
      · exact .plain (.refl _) rfl
    · cases h
  | buffersSetup pf cc =>
    simp only [commandBegin, beginBuffers, badState] at h
    split at h
    · next guard =>
      split at h <;> cases h
      · next ok => exact .buffers pf cc guard.2 ok rfl
      · exact .plain (.refl _) rfl
    · cases h
  | stop =>
    cases h
    exact .plain (.refl _) (by unfold stopSeq; split <;> rfl)
  | start =>
    simp only [commandBegin, beginStart, badState] at h
    split at h <;> cases h
    exact .plain ⟨rfl, rfl, rfl, rfl⟩ (by unfold startSeq; split <;> rfl)
  | exit =>
    simp only [commandBegin, beginExit, badState] at h
    split at h <;> cases h
    exact .plain (.refl _) rfl
  | clearRegisters | enable | clearFifos | primeTxFifo | syncFifos | dmaSubmit | dmaTerminate => cases h; exact .plain (.refl _) rfl
  | periodCallback | waitCompletion | readBufIdx => cases h; exact .plain (.refl _) rfl

theorem buffersSeq_noAlloc (cc : Word) (s : State) : .alloc ∉ buffersSeq cc s := by
  have clock : .alloc ∉ clockSeq s.ctx.profile := by unfold clockSeq; split <;> simp
  simp [buffersSeq, prepareSeq, clearRegistersSeq, configureSeq, enableSeq, clearFifosSeq, submitSeq, clock]

/-- The beginning of a command keeps the invariant and leaves a sequence that comes to an access CTRL may make. -/
theorem BeginFits.sound {s t : State} {todo : List Micro} (fits : BeginFits s t todo) (hs : RegionSound s) (hm : t.ctrl.m = 0)
    (hc : ∀ d, t.chan d = s.chan d) :
    RegionSound t ∧ ∀ n u mi rest, runQuiet n todo t = .access u mi rest → AccessFits u mi rest := by
  have start {P : Prop} : t.ctrl.m ≠ 0 → P := fun h => absurd hm h
  have sound (same : SameRegion s.ctx t.ctx) : RegionSound t :=
    hs.congr same (fun d x hx => by rw [hc d] at hx ⊢; exact ⟨hx, id⟩) start
  cases fits with
  | plain same plain => exact ⟨sound same, fun _ _ _ _ h => (TodoFits.of_plain plain t).access (sound same) h⟩
  | prepare d same => exact ⟨sound same, fun _ _ _ _ h => prepareSeq_access (sound same) h⟩
  | alloc same fresh =>
    refine ⟨sound same, fun n u mi rest h => ?_⟩
    rw [runQuiet_access rfl] at h
    cases h
    exact ⟨fun _ => same.initDone.trans fresh, by simp, .of_plain rfl _⟩
  | buffers pf cc done ok ctx =>
    obtain ⟨bound, -, desc, -⟩ := hs
    have ht : RegionSound t := by
      refine ⟨?_, fun _ => ?_, fun d x hx => ?_, start⟩
      · rw [ctx]; exact bound
      · rw [ctx]; exact ⟨done, geometryOf_fits bound ok⟩
      · rw [hc d] at hx ⊢; rw [ctx]; exact desc d x hx
    have todo : TodoFits t (buffersSeq cc s) := ⟨buffersSeq_noAlloc cc s, fun _ => by rw [ctx]⟩
    exact ⟨ht, fun _ _ _ _ h => todo.access ht h⟩

theorem exec_ctrl_regionSound {i : Instr} {s t : State} (ha : cmdAgent i = .ctrl) (hs : RegionSound s) (e : exec i s = .next t) :
    RegionSound t := by
  by_cases hm : s.ctrl.m = 0
  · rw [exec_eq_runCommand ha] at e
    cases hb : commandBegin i s with
    | fault f => rw [runCommand_fault hm hb] at e; cases e
    | run u todo =>
      rw [runCommand_begin hm hb] at e
      obtain ⟨start, same⟩ := commandBegin_keeps hb
      obtain ⟨hu, ready⟩ := (commandBegin_fits hb).sound hs (start.trans hm) same
      exact microStep_regionSound hu (ready _) e
  · rw [exec_goesOn ha hm] at e
    exact microStep_regionSound hs (fun _ _ _ h => (hs.todo hm).access hs h) e

theorem ctrlStep_regionSound {s t : State} (hs : RegionSound s) (e : ctrlStep s = .next t) : RegionSound t := by
  unfold ctrlStep at e
  split at e
  · cases e; exact hs
  · split at e
    · next hd => exact exec_ctrl_regionSound (decodeFor_agent hd).1 hs e
    · cases e

/-! ## The other agents -/

theorem OtherStep.sameRegion {mv : Move} {s t : State} (h : OtherStep s mv t) : SameRegion s.ctx t.ctx := by
  rcases h.ctx_cases with same | same | same | ⟨-, -, rfl⟩
  · rw [same]; exact .refl _
  · rw [same]; exact ⟨rfl, rfl, rfl, rfl⟩
  · rw [same]; exact ⟨rfl, rfl, rfl, rfl⟩
  · rw [takeCompletion_ctx]; exact ⟨rfl, rfl, rfl, rfl⟩

/-- The other agents leave a channel's descriptor, and move it by ADVANCE alone (R382). -/
theorem OtherStep.chan_cases {mv : Move} {s t : State} (h : OtherStep s mv t) (d : Dir) :
    (t.chan d).desc = (s.chan d).desc ∧ (t.chan d).pos = (s.chan d).pos ∨
      ∃ x, (s.chan d).desc = some x ∧ t.chan d = advanceChannel s.params x (s.chan d) := by
  cases h with
  | stays => exact .inl ⟨rfl, rfl⟩
  | notified | indexRead | store | clock | envTxw | envRxr => left; cases d <;> exact ⟨rfl, rfl⟩
  | callback => left; rw [takeCompletion_chan]; exact ⟨rfl, rfl⟩
  | slot => left; rw [slotEffect_chan]; exact ⟨rfl, rfl⟩
  | beatRx x _ _ _ desc =>
    cases d
    · exact .inr ⟨x, desc, rfl⟩
    · exact .inl ⟨rfl, rfl⟩
  | beatTx x _ desc =>
    cases d
    · exact .inl ⟨rfl, rfl⟩
    · exact .inr ⟨x, desc, rfl⟩
  | quiesce e => left; cases d <;> cases e <;> exact ⟨rfl, rfl⟩
  | envError e => left; cases d <;> cases e <;> exact ⟨rfl, rfl⟩

theorem OtherStep.regionSound {mv : Move} {s t : State} (h : OtherStep s mv t) (hs : RegionSound s) : RegionSound t := by
  have same := h.sameRegion
  refine hs.congr same (fun d x hx => ?_) fun hm => ?_
  · rcases h.chan_cases d with ⟨desc, pos⟩ | ⟨y, hy, moved⟩
    · rw [pos]
      exact ⟨desc ▸ hx, id⟩
    · rw [moved] at hx ⊢
      obtain rfl : y = x := Option.some.inj (hy.symm.trans hx)
      exact ⟨hy, fun fits => fits.advance _⟩
  · obtain ⟨ctrl, -, -⟩ := h.phases
    rw [ctrl] at hm ⊢
    exact (hs.todo hm).congr same.valid

/-! ## F_MEM_RANGE -/

/-- A beat of a channel whose descriptor fits raises no fault. -/
theorem beatStep_noFault {s : State} (hs : RegionSound s) (d : Dir) (f : Fault) : beatStep d s ≠ .fault f := by
  obtain ⟨bound, -, desc, -⟩ := hs
  have inside (x : Desc) (hx : (s.chan d).desc = some x) : inRegion s (beatAddr x (s.chan d)) 4 = true := by
    simpa [inRegion] using (desc d x hx).2.beat bound
  intro e
  unfold beatStep at e
  split at e
  · cases e
  · next x hx =>
    cases d with
    | rx =>
      simp only [beatRx] at e
      split at e
      · cases e
      · split at e
        · cases e
        · next outside => exact outside (inside x hx)
    | tx =>
      simp only [beatTx] at e
      split at e
      · cases e
      · next outside => exact outside (inside x hx)

/-- A consumer's data step faults as the consumer's (R353, R414). -/
theorem consData_faultSite {acc : DataAccess} {s : State} {f : Fault} (e : consData acc s = .fault f) : faultSite f = consSite s := by
  simp only [consData] at e
  split at e
  · split at e
    · split at e <;> cases e; rfl
    · cases e; rfl
  · cases e; rfl

theorem decodeFault_notRange (site : Site) (x : DecodeError) : isRange (decodeFault site x) = false := by cases x <;> rfl

theorem ctrlStep_fault {s : State} {f : Fault} (e : ctrlStep s = .fault f) : isRange f = false := by
  unfold ctrlStep at e
  split at e
  · cases e
  · split at e
    · exact exec_fault e
    · cases e; exact decodeFault_notRange _ _

theorem consStep_fault {s : State} {f : Fault} (e : consStep s = .fault f) : isRange f = false := by
  unfold consStep at e
  split at e
  · cases e
  · split at e
    · exact exec_fault e
    · cases e; exact decodeFault_notRange _ _

/-- Where the region is sound an agent raises F_MEM_RANGE in a consumer's data step alone. -/
theorem agentStep_range {mv : Move} {s : State} {f : Fault} (hs : RegionSound s) (e : agentStep mv s = .fault f)
    (range : isRange f = true) : ∃ acc, mv = .consData acc := by
  have notRange (h : isRange f = false) : ∃ acc, mv = .consData acc := by simp [h] at range
  cases mv with
  | consData acc => exact ⟨acc, rfl⟩
  | ctrl => exact notRange (ctrlStep_fault e)
  | cons => exact notRange (consStep_fault e)
  | irq =>
    simp only [agentStep] at e
    split at e
    · exact notRange (exec_fault e)
    · cases e
  | slot =>
    simp only [agentStep, slotStep] at e
    split at e
    · split at e <;> cases e; exact notRange rfl
    · cases e
  | beat d =>
    simp only [agentStep] at e
    split at e
    · exact absurd e (beatStep_noFault hs d f)
    · cases e
  | hostRead r =>
    simp only [agentStep, hostStep] at e
    split at e <;> cases e; exact notRange rfl
  | pcmClock | quiesce | envError | envTxw | envRxr =>
    simp only [agentStep] at e
    split at e <;> cases e

/-- A fault that is not a recorded one is raised by the agent that moves. -/
theorem step_fault {s : State} {f : Fault} (clean : s.faults = []) (e : step s = .fault f) :
    agentStep (moveOf s.inputs).1 (s.setInputs (moveOf s.inputs).2) = .fault f := by
  unfold step at e
  split at e
  · cases e
  · split at e
    · cases e
    · rw [clean] at e; exact e

/-- Settles O59: CTRL allocates where nothing is allocated and prepares descriptors of a checked geometry only, the other agents move a
channel by ADVANCE alone; so the beats stay inside, and what is left to raise F_MEM_RANGE is the consumer's data step. -/
theorem dmaStaysInRegion : Obligations.DmaStaysInRegion := by
  intro s hs
  have moved : RegionSound (s.setInputs (moveOf s.inputs).2) := hs
  refine ⟨fun t e => ?_, fun clean site a e => ?_⟩
  · have step := step_next e
    by_cases hmv : (moveOf s.inputs).1 = .ctrl
    · rw [hmv] at step
      exact ctrlStep_regionSound moved step
    · exact (agentStep_other hmv step).regionSound moved
  · have fault := step_fault clean e
    obtain ⟨acc, hmv⟩ := agentStep_range moved fault rfl
    rw [hmv] at fault
    exact ⟨_, consData_faultSite fault⟩

end Sys2Proof.Machine
end

section
/-! SUPPORT. The encoding (R140 to R149): what the checks on a command word let through, and the encoder against the decoder; with them
O1, O2, O4 and O5. -/

namespace Sys2Proof

/-! ## The checks on a command word (R148) -/

/-- What the opcode's format asks of IMM (R141 to R144, R151 to R154). -/
def ImmLegal (op : Opcode) (w : Word) : Prop :=
  match opFormat op with
  | .c0 | .cb => immField w = 0#16
  | .cr => immHigh w = 0#8 ∧ (immLow w).toNat % 4 = 0
  | .ca => immHigh w = 0#8 ∧ argLegal op (immLow w) = true
  | .cn => True

/-- A word passes the checks with an opcode exactly when its OPC is the opcode's, its RSV is 0 and its IMM is legal for it. -/
theorem checkWord_ok_iff {w : Word} {op : Opcode} :
    checkWord w = .ok op ↔ opcField w = opcodeByte op ∧ rsvField w = 0#8 ∧ ImmLegal op w := by
  constructor
  · intro h
    unfold checkWord at h
    split at h
    · cases h
    · next op' hop =>
      split_ifs at h with rsv unused high offset arg
      cases h
      refine ⟨opcodeByte_of_opcodeOf hop, not_not.mp rsv, ?_⟩
      cases format : opFormat op <;> simp_all [ImmLegal]
  · rintro ⟨opc, rsv, imm⟩
    unfold checkWord
    rw [opc, opcodeOf_opcodeByte]
    cases format : opFormat op <;> simp_all [ImmLegal]

/-- The checks raise F_ILLEGAL_COMMAND but for one: F_BAD_OFFSET for a register command whose other fields are legal. -/
theorem checkWord_error {w : Word} {e : DecodeError} (h : checkWord w = .error e) :
    e = .illegal w ∨ e = .badOffset w ∧
      ∃ op, opcField w = opcodeByte op ∧ rsvField w = 0#8 ∧ opFormat op = .cr ∧ immHigh w = 0#8 := by
  unfold checkWord at h
  split at h
  · cases h; exact .inl rfl
  · next op hop =>
    split_ifs at h with rsv unused high offset arg <;> cases h
    any_goals exact .inl rfl
    exact .inr ⟨rfl, op, opcodeByte_of_opcodeOf hop, not_not.mp rsv, offset.1, by simpa [offset.1] using high⟩

theorem encode_append (i : Instr) (rest : List Word) :
    encode i ++ rest = commandWord (opcodeByte (opcodeFor i)) (immOf i) :: (operandsOf i ++ rest) := rfl

theorem decode_of_checkWord {w : Word} {op : Opcode} (h : checkWord w = .ok op) (rest : List Word) :
    decode (w :: rest) = takeOperands op w rest := by
  simp only [decode, h]

theorem decodeFor_of_checkWord {w : Word} {op : Opcode} (h : checkWord w = .ok op) (a : CmdAgent) (rest : List Word) :
    decodeFor a (w :: rest) = if opAgent op ≠ a then .error (.illegal w) else takeOperands op w rest := by
  simp only [decodeFor, h]

theorem decodeFor_of_checkWord_error {w : Word} {e : DecodeError} (h : checkWord w = .error e) (a : CmdAgent) (rest : List Word) :
    decodeFor a (w :: rest) = .error e := by
  simp only [decodeFor, h]

/-! ## Decoding what was encoded (R140 to R147) -/

/-- The mask byte leaves IMM[15:8] at 0 and is a legal ARG (R153). -/
theorem maskByte_legal (tx rx : Bool) :
    (maskByte tx rx).extractLsb' 8 8 = 0#8 ∧ ((maskByte tx rx).extractLsb' 0 8).toNat < 4 := by
  cases tx <;> cases rx <;> decide

/-- The mask byte's bits are the directions (R153). -/
theorem maskByte_bits (tx rx : Bool) : (maskByte tx rx).getLsbD 0 = tx ∧ (maskByte tx rx).getLsbD 1 = rx := by
  cases tx <;> cases rx <;> decide

/-- A well-formed command's IMM is legal for its opcode. -/
theorem immLegal_encode {i : Instr} (wf : WellFormed i = true) :
    ImmLegal (opcodeFor i) (commandWord (opcodeByte (opcodeFor i)) (immOf i)) := by
  unfold ImmLegal
  rw [immField_commandWord, immHigh_commandWord, immLow_commandWord]
  cases i with
  | regRead off | regWrite off v | regUpdateBits off m v =>
    exact ⟨setWidth_high off, by rw [immOf, setWidth_low]; exact of_decide_eq_true wf⟩
  | resolve p | init p => exact ⟨setWidth_high p, rfl⟩
  | clearFifos tx rx | syncFifos tx rx =>
    obtain ⟨high, arg⟩ := maskByte_legal tx rx
    exact ⟨high, decide_eq_true arg⟩
  | dmaPrepare d => cases d <;> exact ⟨rfl, rfl⟩
  | stop | start => exact ⟨rfl, rfl⟩
  | primeTxFifo n => trivial
  | _ => rfl

theorem checkWord_encode {i : Instr} (wf : WellFormed i = true) :
    checkWord (commandWord (opcodeByte (opcodeFor i)) (immOf i)) = .ok (opcodeFor i) :=
  checkWord_ok_iff.mpr ⟨opcField_commandWord _ _, rsvField_commandWord _ _, immLegal_encode wf⟩

/-- The command assembled from a command's own words. -/
theorem assemble_encode (i : Instr) (rest : List Word) :
    assemble (opcodeFor i) (commandWord (opcodeByte (opcodeFor i)) (immOf i)) ((operandsOf i ++ rest).getD 0 0#32)
      ((operandsOf i ++ rest).getD 1 0#32) = i := by
  have bits (opc : BitVec 8) (imm : BitVec 16) (k : Nat) (hk : k < 16) :
      (commandWord opc imm).getLsbD k = imm.getLsbD k := by
    rw [commandWord_getLsbD, if_pos hk]
  cases i with
  | regRead off | regWrite off v | regUpdateBits off m v =>
    simp only [assemble, opcodeFor, immLow_commandWord, immOf, setWidth_low, operandsOf, List.cons_append,
      List.getD_cons_zero, List.getD_cons_succ]
  | resolve p | init p => simp only [assemble, opcodeFor, immLow_commandWord, immOf, setWidth_low]
  | clearFifos tx rx | syncFifos tx rx =>
    obtain ⟨h0, h1⟩ := maskByte_bits tx rx
    simp only [assemble, opcodeFor, immOf, bits _ _ 0 (by decide), bits _ _ 1 (by decide), h0, h1]
  | primeTxFifo n => simp only [assemble, opcodeFor, immField_commandWord, immOf]
  | dmaPrepare d => cases d <;> rfl
  | _ => rfl

theorem operandsOf_length (i : Instr) : (operandsOf i).length = opWords (opcodeFor i) := by cases i <;> rfl

theorem takeOperands_encode (i : Instr) (rest : List Word) :
    takeOperands (opcodeFor i) (commandWord (opcodeByte (opcodeFor i)) (immOf i)) (operandsOf i ++ rest) = .ok i := by
  have enough : ¬(operandsOf i ++ rest).length < opWords (opcodeFor i) := by
    rw [List.length_append, operandsOf_length]; omega
  rw [takeOperands, if_neg enough, assemble_encode]

/-- Settles O1: the encoded word passes the checks with the command's opcode, and the agent check is then the only difference. -/
theorem decodeEncode : Obligations.DecodeEncode := by
  intro i rest wf
  have checked := checkWord_encode wf
  have taken := takeOperands_encode i rest
  rw [encode_append]
  refine ⟨?_, ?_, fun a other => ?_⟩
  · rw [decode_of_checkWord checked, taken]
  · rw [decodeFor_of_checkWord checked, taken]
    exact if_neg (not_not.mpr rfl)
  · rw [decodeFor_of_checkWord checked]
    exact if_pos other.symm

/-! ## Encoding what was decoded (R140 to R147) -/

/-- A word is put together from its fields (R140). -/
theorem commandWord_fields {w : Word} {opc : BitVec 8} (hopc : opcField w = opc) (rsv : rsvField w = 0#8) :
    commandWord opc (immField w) = w := by
  subst hopc
  have rsvBit (k : Nat) (lo : 16 ≤ k) (hi : k < 24) : w.getLsbD k = false := by
    have := congrArg (·.getLsbD (k - 16)) rsv
    simpa [rsvField, show k - 16 < 8 by omega, show 16 + (k - 16) = k by omega] using this
  apply BitVec.eq_of_getLsbD_eq
  intro k hk
  rw [commandWord_getLsbD]
  split_ifs with low mid
  · simp [immField, low]
  · exact (rsvBit k (by omega) mid).symm
  · simp [opcField, show k - 24 < 8 by omega, show 24 + (k - 24) = k by omega]

/-- With IMM[15:8] at 0, IMM is its low byte (R142, R143, R163). -/
theorem setWidth_immLow {w : Word} (high : immHigh w = 0#8) : (immLow w).setWidth 16 = immField w := by
  have zero := congrArg BitVec.toNat high
  rw [immHigh_toNat] at zero
  apply BitVec.eq_of_toNat_eq
  rw [BitVec.toNat_setWidth, immLow_toNat, immField_toNat]
  simp only [BitVec.toNat_ofNat] at zero
  omega

theorem immField_getLsbD (w : Word) {k : Nat} (hk : k < 16) : (immField w).getLsbD k = w.getLsbD k := by
  simp [immField, hk]

/-- With IMM[15:8] at 0 and a bounded ARG, IMM is as bounded. -/
theorem immField_lt {w : Word} {n : Nat} (high : immHigh w = 0#8) (arg : (immLow w).toNat < n) : (immField w).toNat < n := by
  rw [← setWidth_immLow high, BitVec.toNat_setWidth]
  exact lt_of_le_of_lt (Nat.mod_le _ _) arg

/-- A legal direction mask is the mask byte of its two bits (R153). -/
theorem maskByte_immField {w : Word} (high : immHigh w = 0#8) (arg : (immLow w).toNat < 4) :
    maskByte (w.getLsbD 0) (w.getLsbD 1) = immField w := by
  have small := immField_lt high arg
  rw [← immField_getLsbD w (k := 0) (by decide), ← immField_getLsbD w (k := 1) (by decide)]
  generalize immField w = x at small ⊢
  obtain rfl | rfl | rfl | rfl : x = 0#16 ∨ x = 1#16 ∨ x = 2#16 ∨ x = 3#16 := by bv_omega
  all_goals rfl

/-- A legal one-bit ARG is its bit (R152, R154). -/
theorem bit_immField {w : Word} (high : immHigh w = 0#8) (arg : (immLow w).toNat < 2) :
    immField w = if w.getLsbD 0 then 1#16 else 0#16 := by
  have small := immField_lt high arg
  rw [← immField_getLsbD w (k := 0) (by decide)]
  generalize immField w = x at small ⊢
  obtain rfl | rfl : x = 0#16 ∨ x = 1#16 := by bv_omega
  all_goals rfl

/-- The command assembled from a word whose IMM is legal has that IMM. -/
theorem immOf_assemble {op : Opcode} {w : Word} (legal : ImmLegal op w) (x y : Word) : immOf (assemble op w x y) = immField w := by
  cases op with
  | regRead | regWrite | regUpdateBits | resolve | init => exact setWidth_immLow legal.1
  | clearFifos | syncFifos => exact maskByte_immField legal.1 (of_decide_eq_true legal.2)
  | dmaPrepare | startStop =>
    rw [bit_immField legal.1 (of_decide_eq_true legal.2)]
    cases hb : w.getLsbD 0 <;> simp only [assemble, hb] <;> rfl
  | primeTxFifo => rfl
  | _ => exact legal.symm

theorem wellFormed_assemble {op : Opcode} {w : Word} (legal : ImmLegal op w) (x y : Word) :
    WellFormed (assemble op w x y) = true := by
  cases op with
  | regRead | regWrite | regUpdateBits => exact decide_eq_true legal.2
  | startStop => simp only [assemble]; split <;> rfl
  | _ => rfl

/-- The assembled command's operand words are the ones it was given (R145, R146). -/
theorem operandsOf_assemble (op : Opcode) (w x y : Word) : operandsOf (assemble op w x y) = [x, y].take (opWords op) := by
  cases op with
  | startStop => simp only [assemble]; split <;> rfl
  | _ => rfl

/-- Two operand words are read from the words that are there (R148). -/
theorem take_getD {rest : List Word} {n : Nat} (hn : n ≤ 2) (enough : n ≤ rest.length) :
    [rest.getD 0 0#32, rest.getD 1 0#32].take n = rest.take n := by
  match n, rest with
  | 0, _ => rfl
  | 1, _ :: _ => rfl
  | 2, _ :: _ :: _ => rfl

/-- Settles O2: the words are put together again from the fields that the checks let through and from the operands taken. -/
theorem decodeSound : Obligations.DecodeSound := by
  intro ws i h
  obtain ⟨w, rest, op, rfl, checked, enough, rfl⟩ := decode_ok h
  obtain ⟨opc, rsv, legal⟩ := checkWord_ok_iff.mp checked
  refine ⟨wellFormed_assemble legal _ _, rest.drop (opWords op), ?_⟩
  have two : opWords op ≤ 2 := by cases op <;> decide
  rw [encode_append, opcodeFor_assemble, immOf_assemble legal, commandWord_fields opc rsv, operandsOf_assemble, take_getD two enough,
    List.take_append_drop]

/-! ## The fields as numbers (R147, R149) -/

/-- The OPC values of R147. -/
theorem opcodeOf_eq_none_iff {b : BitVec 8} :
    opcodeOf b = none ↔ b.toNat ∉ [0x01, 0x02, 0x03, 0x10, 0x11, 0x12, 0x13, 0x20, 0x21, 0x22, 0x30, 0x31, 0x32, 0x33, 0x40,
      0x41, 0x42, 0x43, 0x50, 0x51] := by
  unfold opcodeOf
  split <;> simp_all

theorem mem_c0cb_iff (op : Opcode) : (opcodeByte op).toNat ∈ [0x11, 0x12, 0x13, 0x31, 0x32, 0x33, 0x41, 0x43, 0x50, 0x51] ↔
    opFormat op = .c0 ∨ opFormat op = .cb := by cases op <;> decide

theorem mem_cr_iff (op : Opcode) : (opcodeByte op).toNat ∈ [0x01, 0x02, 0x03] ↔ opFormat op = .cr := by cases op <;> decide

theorem mem_ca_iff (op : Opcode) : (opcodeByte op).toNat ∈ [0x10, 0x20, 0x22, 0x30, 0x40, 0x42] ↔ opFormat op = .ca := by
  cases op <;> decide

theorem argLegal_false_iff (op : Opcode) (arg : BitVec 8) :
    argLegal op arg = false ↔ ((opcodeByte op).toNat ∈ [0x20, 0x22] ∧ 4 ≤ arg.toNat) ∨
      ((opcodeByte op).toNat ∈ [0x30, 0x42] ∧ 2 ≤ arg.toNat) := by
  cases op <;> simp [argLegal, opcodeByte, Nat.succ_le_iff]

theorem opAgent_eq (op : Opcode) :
    opAgent op = if (opcodeByte op).toNat = 0x33 then .irq else if (opcodeByte op).toNat ∈ [0x50, 0x51] then .cons else .ctrl := by
  cases op <;> rfl

theorem opWords_eq (op : Opcode) :
    opWords op = if (opcodeByte op).toNat = 0x02 then 1 else if (opcodeByte op).toNat ∈ [0x03, 0x41] then 2 else 0 := by
  cases op <;> rfl

theorem immLow_mod_four (w : Word) : (immLow w).toNat % 4 = w.toNat % 4 := by
  rw [immLow_toNat]; omega

theorem rsvField_ne_iff (w : Word) : w.toNat / 2 ^ 16 % 256 ≠ 0 ↔ rsvField w ≠ 0#8 := by
  rw [← rsvField_toNat]; exact BitVec.toNat_ne_iff_ne (y := 0#8)

theorem immField_ne_iff (w : Word) : w.toNat % 2 ^ 16 ≠ 0 ↔ immField w ≠ 0#16 := by
  rw [← immField_toNat]; exact BitVec.toNat_ne_iff_ne (y := 0#16)

theorem immHigh_ne_iff (w : Word) : w.toNat / 2 ^ 8 % 256 ≠ 0 ↔ immHigh w ≠ 0#8 := by
  rw [← immHigh_toNat]; exact BitVec.toNat_ne_iff_ne (y := 0#8)

/-! ## The procedure on numbers (R148) -/

/-- Settles O5: a word without an opcode fails the first check; with one, each test on numbers is the decoder's own on the opcode and
the fields, and the two chains take their branches together. -/
theorem decodeProcedure : Obligations.DecodeProcedure := by
  intro a w rest opc arg agent ops
  subst opc arg agent ops
  rw [← opcField_toNat]
  cases hop : opcodeOf (opcField w) with
  | none =>
    rw [if_pos (opcodeOf_eq_none_iff.mp hop)]
    exact decodeFor_of_checkWord_error (by simp only [checkWord, hop]) a rest
  | some op =>
    rw [if_neg (opcodeOf_eq_none_iff.not.mp (by simp [hop])), opcodeByte_of_opcodeOf hop]
    simp only [mem_c0cb_iff, mem_cr_iff, mem_ca_iff, rsvField_ne_iff, immField_ne_iff, immHigh_ne_iff, ← immLow_mod_four,
      ← immLow_toNat, ← argLegal_false_iff, ← opAgent_eq, ← opWords_eq]
    have checked := checkWord.eq_def w
    simp only [hop] at checked
    split_ifs at checked ⊢ with rsv unused high offset arg agent short
    -- the five checks of the word alone
    iterate 5 exact decodeFor_of_checkWord_error checked a rest
    · rw [decodeFor_of_checkWord checked, if_pos agent]
    · rw [decodeFor_of_checkWord checked, if_neg agent, takeOperands, if_pos short]
    · refine ⟨_, by rw [decodeFor_of_checkWord checked, if_neg agent, takeOperands, if_neg short], ?_, ?_⟩
      · rw [cmdAgent, opcodeFor_assemble]; exact not_not.mp agent
      · rw [operandWords, opcodeFor_assemble]

/-! ## Illegal words (R149) -/

/-- The words that R149 makes illegal: an OPC outside the map or PERIOD_CALLBACK's, a nonzero RSV, a nonzero unused IMM bit, an ARG
outside R152 to R154. -/
def IllegalWord (w : Word) : Prop :=
  w.toNat / 2 ^ 24 ∉ [0x01, 0x02, 0x03, 0x10, 0x11, 0x12, 0x13, 0x20, 0x21, 0x22, 0x30, 0x31, 0x32, 0x40, 0x41, 0x42, 0x43,
      0x50, 0x51] ∨
    w.toNat / 2 ^ 16 % 256 ≠ 0 ∨
    (w.toNat / 2 ^ 24 ∈ [0x11, 0x12, 0x13, 0x31, 0x32, 0x41, 0x43, 0x50, 0x51] ∧ w.toNat % 2 ^ 16 ≠ 0) ∨
    (w.toNat / 2 ^ 24 ∈ [0x01, 0x02, 0x03, 0x10, 0x20, 0x22, 0x30, 0x40, 0x42] ∧ w.toNat / 2 ^ 8 % 256 ≠ 0) ∨
    (w.toNat / 2 ^ 24 ∈ [0x20, 0x22] ∧ 4 ≤ w.toNat % 256) ∨ (w.toNat / 2 ^ 24 ∈ [0x30, 0x42] ∧ 2 ≤ w.toNat % 256)

/-- The only opcode of the map that no stream may hold (R149). -/
theorem eq_periodCallback_of_not_mem {op : Opcode}
    (h : (opcodeByte op).toNat ∉ [0x01, 0x02, 0x03, 0x10, 0x11, 0x12, 0x13, 0x20, 0x21, 0x22, 0x30, 0x31, 0x32, 0x40, 0x41, 0x42,
      0x43, 0x50, 0x51]) : op = .periodCallback := by
  revert h; cases op <;> decide

theorem format_of_mem_unused {op : Opcode} (h : (opcodeByte op).toNat ∈ [0x11, 0x12, 0x13, 0x31, 0x32, 0x41, 0x43, 0x50, 0x51]) :
    opFormat op = .c0 ∨ opFormat op = .cb := by
  revert h; cases op <;> decide

theorem format_of_mem_byte {op : Opcode} (h : (opcodeByte op).toNat ∈ [0x01, 0x02, 0x03, 0x10, 0x20, 0x22, 0x30, 0x40, 0x42]) :
    opFormat op = .cr ∨ opFormat op = .ca := by
  revert h; cases op <;> decide

theorem format_of_argLegal_false {op : Opcode} {arg : BitVec 8} (h : argLegal op arg = false) : opFormat op = .ca := by
  revert h; cases op <;> simp [argLegal, opFormat]

/-- What makes a word with an opcode illegal, on its fields: never the alignment of an offset alone. -/
theorem IllegalWord.fields {w : Word} {op : Opcode} (h : IllegalWord w) (opc : opcField w = opcodeByte op) :
    op = .periodCallback ∨ rsvField w ≠ 0#8 ∨ (¬ImmLegal op w ∧ (opFormat op = .cr → immHigh w ≠ 0#8)) := by
  simp only [IllegalWord, ← opcField_toNat, opc] at h
  rw [← immLow_toNat, ← argLegal_false_iff, rsvField_ne_iff, immField_ne_iff, immHigh_ne_iff] at h
  obtain outside | rsv | ⟨mem, imm⟩ | ⟨mem, high⟩ | arg := h
  · exact .inl (eq_periodCallback_of_not_mem outside)
  · exact .inr (.inl rsv)
  · refine .inr (.inr ?_)
    obtain format | format := format_of_mem_unused mem <;> simp [ImmLegal, format, imm]
  · refine .inr (.inr ⟨?_, fun _ => high⟩)
    obtain format | format := format_of_mem_byte mem <;> simp [ImmLegal, format, high]
  · refine .inr (.inr ?_)
    simp [ImmLegal, format_of_argLegal_false arg, arg]

/-- No check lets an illegal word through, PERIOD_CALLBACK's own apart, and none takes it for a bad offset. -/
theorem checkWord_of_illegalWord {w : Word} (h : IllegalWord w) :
    checkWord w = .error (.illegal w) ∨ checkWord w = .ok .periodCallback := by
  cases checked : checkWord w with
  | error e =>
    obtain rfl | ⟨-, op, opc, rsv, format, high⟩ := checkWord_error checked
    · exact .inl rfl
    · obtain rfl | rsv' | ⟨-, high'⟩ := h.fields opc
      · cases format
      · exact absurd rsv rsv'
      · exact absurd high (high' format)
  | ok op =>
    obtain ⟨opc, rsv, legal⟩ := checkWord_ok_iff.mp checked
    obtain rfl | rsv' | ⟨illegal, -⟩ := h.fields opc
    · exact .inr rfl
    · exact absurd rsv rsv'
    · exact absurd legal illegal

/-- An agent with a stream raises F_ILLEGAL_COMMAND at an illegal word, PERIOD_CALLBACK's by the agent check. -/
theorem decodeFor_of_illegalWord {w : Word} (h : IllegalWord w) {a : CmdAgent} (stream : a ≠ .irq) (rest : List Word) :
    decodeFor a (w :: rest) = .error (.illegal w) := by
  obtain failed | passed := checkWord_of_illegalWord h
  · exact decodeFor_of_checkWord_error failed a rest
  · rw [decodeFor_of_checkWord passed]
    exact if_pos stream.symm

end Sys2Proof

namespace Sys2Proof.Machine

/-- CTRL faults with the decoder's error at its pointer (R47, R148). -/
theorem ctrlStep_undecoded {s : State} {w : Word} {rest : List Word} {e : DecodeError} (words : ctrlWords s = w :: rest)
    (h : decodeFor .ctrl (w :: rest) = .error e) : ctrlStep s = .fault (decodeFault (ctrlSite s) e) := by
  simp only [ctrlStep, words, h]

/-- CONS faults with the decoder's error at its pointer (R48, R148). -/
theorem consStep_undecoded {s : State} {w : Word} {rest : List Word} {e : DecodeError} (words : consWords s = w :: rest)
    (h : decodeFor .cons (w :: rest) = .error e) : consStep s = .fault (decodeFault (consSite s) e) := by
  simp only [consStep, words, h]

/-- Settles O4: both decoders answer F_ILLEGAL_COMMAND at the word, and the step raises it at the agent's pointer. -/
theorem illegalEncodings : Obligations.IllegalEncodings := by
  intro w rest (illegal : IllegalWord w)
  exact ⟨fun s words => ctrlStep_undecoded words (decodeFor_of_illegalWord illegal (by decide) rest),
    fun s words => consStep_undecoded words (decodeFor_of_illegalWord illegal (by decide) rest)⟩

end Sys2Proof.Machine
end

section
/-! SUPPORT. What the agents other than CTRL leave of CTRL's registers: they raise error flags and INTSTC_A bits, and no more
(R31, R41, R57, R194); with it O52. -/

namespace Sys2Proof.Machine

/-- The peripheral registers `q` are `p` but for error flags and INTSTC_A bits raised (R57, R372, R395). -/
def FlagsRaised (p q : Peripheral) : Prop :=
  ∃ (tx rx : Bool) (bits : Word),
    q = { p with cs := { p.cs with txerr := p.cs.txerr || tx, rxerr := p.cs.rxerr || rx }, intstc := p.intstc ||| bits }

theorem FlagsRaised.refl (p : Peripheral) : FlagsRaised p p := ⟨false, false, 0#32, by simp⟩

theorem FlagsRaised.of_eq {p q : Peripheral} (h : q = p) : FlagsRaised p q := h ▸ .refl p

theorem FlagsRaised.trans {p q r : Peripheral} (hpq : FlagsRaised p q) (hqr : FlagsRaised q r) : FlagsRaised p r := by
  obtain ⟨tx, rx, bits, rfl⟩ := hpq
  obtain ⟨tx', rx', bits', rfl⟩ := hqr
  exact ⟨tx || tx', rx || rx', bits ||| bits', by simp [Bool.or_assoc, BitVec.or_assoc]⟩

theorem setRxErr_flagsRaised (s : State) : FlagsRaised s.pr (setRxErr s).pr :=
  ⟨false, true, fieldMask s.params.regmap.int.rxerr, by simp [setRxErr]⟩

theorem setTxErr_flagsRaised (s : State) : FlagsRaised s.pr (setTxErr s).pr :=
  ⟨true, false, fieldMask s.params.regmap.int.txerr, by simp [setTxErr]⟩

theorem envTxwStep_flagsRaised (s : State) : FlagsRaised s.pr (envTxwStep s).pr :=
  ⟨false, false, fieldMask s.params.regmap.int.txw, by simp [envTxwStep]⟩

theorem envRxrStep_flagsRaised (s : State) : FlagsRaised s.pr (envRxrStep s).pr :=
  ⟨false, false, fieldMask s.params.regmap.int.rxr, by simp [envRxrStep]⟩

theorem slotTx_flagsRaised (s : State) : FlagsRaised s.pr (slotTx s).pr := by
  rw [slotTx_pr]
  split
  · exact setTxErr_flagsRaised s
  · exact .refl _

theorem slotRx_flagsRaised (s : State) : FlagsRaised s.pr (slotRx s).pr := by
  rw [slotRx_pr]
  split
  · exact .refl _
  · exact setRxErr_flagsRaised s

/-- A SLOT step raises the flags of its transmit half, then those of its receive half (R372). -/
theorem slotEffect_flagsRaised (s : State) : FlagsRaised s.pr (slotEffect s).pr := by
  have transmit : FlagsRaised s.pr (if s.pr.cs.txon then slotTx s else s).pr := by
    split
    · exact slotTx_flagsRaised s
    · exact .refl _
  have receive : ∀ t : State, FlagsRaised t.pr (if s.pr.cs.rxon then slotRx t else t).pr := fun t => by
    split
    · exact slotRx_flagsRaised t
    · exact .refl _
  exact transmit.trans (receive _)

theorem OtherStep.flagsRaised {mv : Move} {s t : State} (h : OtherStep s mv t) : FlagsRaised s.pr t.pr := by
  cases h with
  | slot => exact slotEffect_flagsRaised s
  | envTxw => exact envTxwStep_flagsRaised s
  | envRxr => exact envRxrStep_flagsRaised s
  | callback => exact .of_eq (takeCompletion_pr s)
  | quiesce d => exact .of_eq (quiesceStep_pr d s)
  | envError d => exact .of_eq (envErrorStep_pr d s)
  | stays | notified | indexRead | store | clock | beatRx | beatTx => exact .refl _

theorem OtherStep.ctrl {mv : Move} {s t : State} (h : OtherStep s mv t) : t.ctrl = s.ctrl := by
  cases h with
  | slot => exact slotEffect_ctrl s
  | callback => exact takeCompletion_ctrl s
  | quiesce d => exact quiesceStep_ctrl d s
  | envError d => exact envErrorStep_ctrl d s
  | stays | notified | indexRead | store | clock | beatRx | beatTx | envTxw | envRxr => rfl

/-- `ctx.state` and `ctx.result` are CTRL's (R31, R41). -/
theorem OtherStep.state_result {mv : Move} {s t : State} (h : OtherStep s mv t) :
    t.ctx.state = s.ctx.state ∧ t.ctx.result = s.ctx.result := by
  obtain same | same | same | ⟨-, -, rfl⟩ := h.ctx_cases
  · rw [same]; exact ⟨rfl, rfl⟩
  · rw [same]; exact ⟨rfl, rfl⟩
  · rw [same]; exact ⟨rfl, rfl⟩
  · rw [takeCompletion_ctx]; exact ⟨rfl, rfl⟩

theorem or_and_self_left (x bits : Word) : (x ||| bits) &&& x = x := by
  ext i
  simp only [BitVec.getElem_and, BitVec.getElem_or]
  cases x[i] <;> simp

/-- Settles O52: a step of another agent is one of the listed ones, and each leaves CTRL's registers but for flags it raises. -/
theorem onlyCtrlWritesRegisters : Obligations.OnlyCtrlWritesRegisters := by
  intro s t e hmv
  have other := agentStep_other hmv (step_next e)
  obtain ⟨state, result⟩ := other.state_result
  obtain ⟨tx, rx, bits, raised⟩ := other.flagsRaised
  rw [State.setInputs_pr] at raised
  rw [raised]
  refine ⟨other.ctrl, state, result, rfl, rfl, rfl, rfl, rfl, rfl, fun set => ?_, fun set => ?_, or_and_self_left _ _⟩
  · simp [set]
  · simp [set]

end Sys2Proof.Machine
end

section
/-! SUPPORT. The register commands on the default layout with a reliable bus (R180, R181, R184 to R191): the register at an offset, what
each register's read and write answers, and with them O10 to O15. -/

namespace Sys2Proof.Machine

/-! ## The whole command, from the access it makes -/

section
variable {s : State} {off : BitVec 8} {r : Reg} (start : AtStart s) (layout : DefaultLayout s) (reliable : BusReliable s)
  (at_off : regAt bcm2835 (off.setWidth 32) = some r)
include start layout reliable at_off

theorem exec_regRead_ok {v : Word} {t : State} (h : readOnBus r s = .ok v t) :
    exec (.regRead off) s =
      .next { t with ctx := { t.ctx with lastRead := some v, result := .ok }, ctrl := ctrlPast t.ctrl 0 } := by
  rw [exec_regRead start (layout ▸ at_off), regRead_reliable reliable, h]
  rfl

/-- A register that reads as its stored bits, with a draw in the reserved ones (R59). -/
theorem exec_regRead_plain {known mask stored : Word} (same : known = mask)
    (h : readOnBus r s = .ok (plainValue known stored (drawOf s.inputs).1) (s.setInputs (drawOf s.inputs).2)) :
    exec (.regRead off) s =
      .next { s with
        ctx := { s.ctx with lastRead := some ((stored &&& mask) ||| ((drawOf s.inputs).1 &&& ~~~mask)), result := .ok }
        ctrl := ctrlPast s.ctrl 0
        inputs := (drawOf s.inputs).2 } := by
  subst same
  exact exec_regRead_ok start layout reliable at_off h

theorem exec_regRead_fault {f : Fault} (h : readOnBus r s = .fault f) : exec (.regRead off) s = .fault f := by
  rw [exec_regRead start (layout ▸ at_off), regRead_reliable reliable, h]

theorem exec_regWrite_ok {v : Word} {t : State} (h : writeOnBus r v s = .ok () t) :
    exec (.regWrite off v) s = .next { t with ctx := { t.ctx with result := .ok }, ctrl := ctrlPast t.ctrl 1 } := by
  rw [exec_regWrite start (layout ▸ at_off), regWrite_reliable reliable, h]
  rfl

theorem exec_regWrite_fault {v : Word} {f : Fault} (h : writeOnBus r v s = .fault f) : exec (.regWrite off v) s = .fault f := by
  rw [exec_regWrite start (layout ▸ at_off), regWrite_reliable reliable, h]

theorem exec_regWrite_refused {v : Word} {x : Refusal} (h : writeOnBus r v s = .refused x) :
    exec (.regWrite off v) s = .refused x := by
  rw [exec_regWrite start (layout ▸ at_off), regWrite_reliable reliable, h]

end

/-! ## CS_A (R185, R186) -/

/-- Settles O10: the word is `csValue`, whose bits the laws of CS_A give group by group. -/
theorem readCsA : Obligations.ReadCsA := by
  intro s start layout reliable
  have h : s.params.regmap = bcm2835 := layout
  obtain ⟨b0, b1, b2, b3, b4, b9, b15, b16, b23, b24, b25⟩ := csValue_stored h (drawOf s.inputs).1
  obtain ⟨b17, b18, b19, b20, b21, b22⟩ := csValue_flags h (drawOf s.inputs).1
  obtain ⟨txthr, rxthr⟩ := csValue_thresholds h (drawOf s.inputs).1
  exact ⟨csValue s (drawOf s.inputs).1, exec_regRead_ok start layout reliable (r := .csA) (by decide) rfl,
    b0, b1, b2, b3, b4, txthr, rxthr, b9, csValue_open h _, b15, b16, b17, b18, b19, b20, b21, b22, b23, b24, b25⟩

/-- An error flag of CS_A is cleared by writing it as 1 (R186). -/
theorem and_not_eq_ite (flag written : Bool) : (flag && !written) = if written = true then false else flag := by
  cases written <;> simp

/-- A write of CS_A on the bits of the default layout, each condition as a proposition (R186, R75, R76). -/
theorem writeOnBus_csA {s : State} (layout : DefaultLayout s) (v : Word) :
    writeOnBus .csA v s =
      .ok () { s with
        pr := { s.pr with
          cs := ⟨v.getLsbD 0, v.getLsbD 1, v.getLsbD 2, v.extractLsb' 5 2, v.extractLsb' 7 2, v.getLsbD 9,
            if v.getLsbD 15 = true then false else s.pr.cs.txerr, if v.getLsbD 16 = true then false else s.pr.cs.rxerr,
            v.getLsbD 23, v.getLsbD 25⟩ }
        pipe := { s.pipe with
          clrTx := if v.getLsbD 3 = true ∧ s.pipe.clrTx = .none then .zero else s.pipe.clrTx
          clrRx := if v.getLsbD 4 = true ∧ s.pipe.clrRx = .none then .zero else s.pipe.clrRx
          syncW := v.getLsbD 24
          syncCnt := if v.getLsbD 24 ≠ s.pipe.syncW then 0 else s.pipe.syncCnt } } := by
  simp only [writeOnBus, writeCs_fields layout, and_not_eq_ite, Bool.and_eq_true, beq_iff_eq, ite_not]
  rfl

/-- Settles O11: the command is one access, and the access writes the bits of the default layout. -/
theorem writeCsA : Obligations.WriteCsA := by
  intro s v start layout reliable
  exact exec_regWrite_ok start layout reliable (r := .csA) (by decide) (writeOnBus_csA layout v)

/-! ## FIFO_A (R187, R188, R444) -/

theorem fifoOn_iff {s : State} : fifoOn s = true ↔ FifoOpen s := by
  simp [fifoOn, FifoOpen, and_comm]

/-- Both accesses of a FIFO_A that is off fault. -/
theorem fifoA_off {s : State} (off : s.pr.cs.stby = false ∨ s.pr.cs.en = false) (v : Word) :
    readOnBus .fifoA s = .fault (.fifoOff (ctrlSite s) .read) ∧ writeOnBus .fifoA v s = .fault (.fifoOff (ctrlSite s) .write) := by
  have closed : fifoOn s = false := by rw [fifoOn, Bool.and_eq_false_iff]; exact off
  simp [readOnBus, writeOnBus, fifoPop, fifoPush, closed]

theorem readOnBus_fifoA_cons {s : State} (on : FifoOpen s) {e : RxEntry} {rest : List RxEntry} (waiting : s.fifo.rx = e :: rest) :
    readOnBus .fifoA s = .ok e.word (s.setFifo { s.fifo with rx := rest }) := by
  simp [readOnBus, fifoPop, fifoOn_iff.mpr on, waiting]

theorem readOnBus_fifoA_nil {s : State} (on : FifoOpen s) (empty : s.fifo.rx = []) :
    readOnBus .fifoA s = .ok (drawOf s.inputs).1 (setRxErr (s.setInputs (drawOf s.inputs).2)) := by
  simp [readOnBus, fifoPop, fifoOn_iff.mpr on, empty]

theorem writeOnBus_fifoA_room {s : State} (on : FifoOpen s) (room : s.fifo.tx.length < s.params.fifoDepth) (v : Word) :
    writeOnBus .fifoA v s = .ok () (s.setFifo { s.fifo with tx := s.fifo.tx ++ [v] }) := by
  simp [writeOnBus, fifoPush, fifoOn_iff.mpr on, room]

theorem writeOnBus_fifoA_full {s : State} (on : FifoOpen s) (full : s.params.fifoDepth ≤ s.fifo.tx.length) (v : Word) :
    writeOnBus .fifoA v s = .fault (.txOverflow (ctrlSite s) v) := by
  simp [writeOnBus, fifoPush, fifoOn_iff.mpr on, full.not_gt]

/-- An RX FIFO error on the default layout (R57, R187). -/
theorem setRxErr_default {s : State} (layout : DefaultLayout s) :
    setRxErr s = s.setPr { s.pr with cs := { s.pr.cs with rxerr := true }, intstc := s.pr.intstc ||| 0x8#32 } := by
  unfold setRxErr
  rw [show s.params.regmap = bcm2835 from layout]
  rfl

/-- Where CTRL is at a command's start (R47). -/
theorem ctrlSite_start {s : State} (start : AtStart s) : ctrlSite s = .ctrl s.ctrl.k 0 := by
  rw [ctrlSite, show s.ctrl.m = 0 from start]

/-- Settles O12: off, a word waiting, empty, room and full, each by the access's own answer. -/
theorem fifoAccesses : Obligations.FifoAccesses := by
  intro s start layout reliable
  have at_off : regAt bcm2835 ((0x04#8).setWidth 32) = some .fifoA := by decide
  refine ⟨fun off => ⟨?_, fun v => ?_⟩, fun on e rest waiting => ?_, fun on empty => ?_, fun on v => ⟨fun room => ?_, fun full => ?_⟩⟩
  · rw [← ctrlSite_start start]
    exact exec_regRead_fault start layout reliable at_off (fifoA_off off 0#32).1
  · rw [← ctrlSite_start start]
    exact exec_regWrite_fault start layout reliable at_off (fifoA_off off v).2
  · exact exec_regRead_ok start layout reliable at_off (readOnBus_fifoA_cons on waiting)
  · have underflow := readOnBus_fifoA_nil on empty
    rw [setRxErr_default (s := s.setInputs (drawOf s.inputs).2) layout] at underflow
    exact exec_regRead_ok start layout reliable at_off underflow
  · exact exec_regWrite_ok start layout reliable at_off (writeOnBus_fifoA_room on room v)
  · rw [← ctrlSite_start start]
    exact exec_regWrite_fault start layout reliable at_off (writeOnBus_fifoA_full on full v)

/-! ## MODE_A, RXC_A, TXC_A, DREQ_A, INTEN_A, INTSTC_A (R59, R189, R190) -/

section
variable {s : State} (layout : DefaultLayout s)
include layout

theorem modeKnown_default : modeKnown s.params.regmap.mode = 0x1FFFFFFF#32 := by
  rw [show s.params.regmap = bcm2835 from layout]; exact modeKnown_bcm

theorem modeRefused_default : modeRefused s.params.regmap.mode = 0x0F400000#32 := by
  rw [show s.params.regmap = bcm2835 from layout]; exact modeRefused_bcm

theorem formatKnown_default : formatKnown s.params.regmap.fmt = 0xFFFFFFFF#32 := by
  rw [show s.params.regmap = bcm2835 from layout]; exact formatKnown_bcm

theorem dreqKnown_default : dreqKnown s.params.regmap.dreq = 0x7F7F7F7F#32 := by
  rw [show s.params.regmap = bcm2835 from layout]; exact dreqKnown_bcm

theorem intKnown_default : intKnown s.params.regmap.int = 0xF#32 := by
  rw [show s.params.regmap = bcm2835 from layout]; exact intKnown_bcm

end

/-- A word has no bit of a mask exactly if it reads 0 at each of the mask's bits. -/
theorem and_eq_zero_iff (v mask : Word) : v &&& mask = 0#32 ↔ ∀ i, i < 32 → mask.getLsbD i = true → v.getLsbD i = false := by
  constructor
  · intro h i _ hm
    simpa [hm] using congrArg (fun w => BitVec.getLsbD w i) h
  · intro h
    apply BitVec.eq_of_getLsbD_eq
    intro i hi
    cases hm : mask.getLsbD i
    · simp [hm]
    · simp [h i hi hm]

/-- The modes the model refuses are CLKI, FTXP, FRXP, PDME and PDMN, on the bits of the default layout (R53, R189). -/
theorem modeRefused_iff (v : Word) :
    v &&& 0x0F400000#32 = 0#32 ↔
      v.getLsbD 22 = false ∧ v.getLsbD 24 = false ∧ v.getLsbD 25 = false ∧ v.getLsbD 26 = false ∧ v.getLsbD 27 = false := by
  have bits : ∀ i < 32, (0x0F400000#32).getLsbD i = true ↔ i = 22 ∨ i = 24 ∨ i = 25 ∨ i = 26 ∨ i = 27 := by decide
  rw [and_eq_zero_iff]
  constructor
  · intro h
    have at_bit := fun i (hi : i < 32) hb => h i hi ((bits i hi).mpr hb)
    exact ⟨at_bit 22 (by omega) (by omega), at_bit 24 (by omega) (by omega), at_bit 25 (by omega) (by omega),
      at_bit 26 (by omega) (by omega), at_bit 27 (by omega) (by omega)⟩
  · rintro ⟨h22, h24, h25, h26, h27⟩ i hi hm
    obtain rfl | rfl | rfl | rfl | rfl := (bits i hi).mp hm <;> assumption

section
variable {s : State} (layout : DefaultLayout s) (v : Word)
include layout

/-- A write of MODE_A is refused or stored (R189). -/
theorem writeOnBus_modeA :
    writeOnBus .modeA v s =
      if v &&& 0x0F400000#32 = 0#32 then .ok () (s.setPr { s.pr with mode := v &&& 0x1FFFFFFF#32 })
      else .refused (.modeUnmodelled v) := by
  rw [writeOnBus, modeKnown_default layout, modeRefused_default layout]

theorem writeOnBus_rxcA : writeOnBus .rxcA v s = .ok () (s.setPr { s.pr with rxc := v }) := by
  rw [writeOnBus, formatKnown_default layout, show v &&& 0xFFFFFFFF#32 = v from BitVec.and_allOnes]

theorem writeOnBus_txcA : writeOnBus .txcA v s = .ok () (s.setPr { s.pr with txc := v }) := by
  rw [writeOnBus, formatKnown_default layout, show v &&& 0xFFFFFFFF#32 = v from BitVec.and_allOnes]

theorem writeOnBus_dreqA : writeOnBus .dreqA v s = .ok () (s.setPr { s.pr with dreq := v &&& 0x7F7F7F7F#32 }) := by
  rw [writeOnBus, dreqKnown_default layout]

theorem writeOnBus_intenA : writeOnBus .intenA v s = .ok () (s.setPr { s.pr with inten := v &&& 0xF#32 }) := by
  rw [writeOnBus, intKnown_default layout]

end

/-- A SLOT step on a layout that is not permitted faults with the three registers (R372, R373). -/
theorem agentStep_slot_badLayout {s : State} (layout : DefaultLayout s) (enabled : slotEnabled s = true) (bad : ¬LayoutBits s.pr) :
    agentStep .slot s = .fault (.frameUnmodelled .pcm s.pr.mode s.pr.rxc s.pr.txc) := by
  have not_ok : ¬layoutOk s = true := fun ok => bad ((layoutOk_iff layout).mp ok)
  simp only [agentStep, if_pos enabled, slotStep, if_neg not_ok]

/-- Settles O13: each register's mask on the default layout, and the refused modes bit by bit. -/
theorem plainRegisters : Obligations.PlainRegisters := by
  intro s start layout reliable
  refine ⟨?_, fun v => ⟨fun set => ?_, fun clear => ?_, ?_, ?_, ?_, ?_⟩, agentStep_slot_badLayout layout⟩
  · simp only [List.forall_mem_cons]
    exact ⟨exec_regRead_plain start layout reliable (r := .modeA) (by decide) (modeKnown_default layout) rfl,
      exec_regRead_plain start layout reliable (r := .rxcA) (by decide) (formatKnown_default layout) rfl,
      exec_regRead_plain start layout reliable (r := .txcA) (by decide) (formatKnown_default layout) rfl,
      exec_regRead_plain start layout reliable (r := .dreqA) (by decide) (dreqKnown_default layout) rfl,
      exec_regRead_plain start layout reliable (r := .intenA) (by decide) (intKnown_default layout) rfl, List.forall_mem_nil _⟩
  · have refused : ¬v &&& 0x0F400000#32 = 0#32 := by
      rw [modeRefused_iff]
      rintro ⟨h22, h24, h25, h26, h27⟩
      simp only [h22, h24, h25, h26, h27, Bool.false_eq_true, or_self] at set
    exact exec_regWrite_refused start layout reliable (r := .modeA) (by decide) ((writeOnBus_modeA layout v).trans (if_neg refused))
  · have stored : v &&& 0x0F400000#32 = 0#32 := (modeRefused_iff v).mpr clear
    exact exec_regWrite_ok start layout reliable (by decide) ((writeOnBus_modeA layout v).trans (if_pos stored))
  · exact exec_regWrite_ok start layout reliable (by decide) (writeOnBus_rxcA layout v)
  · exact exec_regWrite_ok start layout reliable (by decide) (writeOnBus_txcA layout v)
  · exact exec_regWrite_ok start layout reliable (by decide) (writeOnBus_dreqA layout v)
  · exact exec_regWrite_ok start layout reliable (by decide) (writeOnBus_intenA layout v)

/-- Settles O14: INTSTC_A has the mask of INTEN_A and writes W1C; GRAY reads the draw itself, and no write of it is modelled. -/
theorem intstcAndGray : Obligations.IntstcAndGray := by
  intro s start layout reliable
  refine ⟨?_, fun v => ?_, ?_, fun v => ?_⟩
  · have reserved : 0xFFFFFFF0#32 = ~~~0xF#32 := by decide
    rw [reserved]
    exact exec_regRead_plain start layout reliable (off := 0x1C#8) (r := .intstcA) (by decide) (intKnown_default layout) rfl
  · exact exec_regWrite_ok start layout reliable (r := .intstcA) (by decide) rfl
  · exact exec_regRead_ok start layout reliable (r := .gray) (by decide) rfl
  · exact exec_regWrite_refused start layout reliable (r := .gray) (by decide) rfl

/-! ## Offsets the block does not decode (R184) -/

/-- An offset of the default layout that is not one of the nine is no register's. -/
theorem regAt_default_none {off : BitVec 8}
    (h : off ∉ [0x00#8, 0x04#8, 0x08#8, 0x0C#8, 0x10#8, 0x14#8, 0x18#8, 0x1C#8, 0x20#8]) :
    regAt bcm2835 (off.setWidth 32) = none := by
  refine List.find?_eq_none.mpr fun r _ found => h ?_
  have narrow : off = (regOffset bcm2835 r).setWidth 8 := by
    rw [beq_iff_eq.mp found]
    simp
  rw [narrow]
  cases r <;> decide

/-- A register command of an offset that is no register's faults before any access (R184). -/
theorem beginRegister_none {s : State} {off : BitVec 8} (start : AtStart s) (h : regAt s.params.regmap (off.setWidth 32) = none)
    (todo : Reg → List Micro) : beginRegister off todo s = .fault (.badOffset (.ctrl s.ctrl.k 0) (off.setWidth 32)) := by
  simp only [beginRegister_eq, h, ctrlSite_start start]

/-- A register command word with a misaligned offset decodes for no agent: F_BAD_OFFSET (R148). -/
theorem decodeFor_misaligned {w : Word} (opc : w.toNat / 2 ^ 24 ∈ [0x01, 0x02, 0x03]) (fields : w.toNat / 2 ^ 8 % 2 ^ 16 = 0)
    (misaligned : w.toNat % 4 ≠ 0) (a : CmdAgent) (rest : List Word) : decodeFor a (w :: rest) = .error (.badOffset w) := by
  have rsv : w.toNat / 65536 % 256 = 0 := by omega
  have high : w.toNat / 256 % 256 = 0 := by omega
  have opcodes : w.toNat / 16777216 = 1 ∨ w.toNat / 16777216 = 2 ∨ w.toNat / 16777216 = 3 := by simpa using opc
  have procedure := decodeProcedure a w rest
  obtain opcode | opcode | opcode := opcodes <;> simpa [opcode, rsv, high, misaligned] using procedure

/-- Settles O15: none of the three commands finds a register; and the decoder's procedure, whose offset check comes first to fail. -/
theorem badOffset : Obligations.BadOffset := by
  refine ⟨fun s off start layout other => ?_, fun a w rest opc fields misaligned => decodeFor_misaligned opc fields misaligned a rest⟩
  have none_at : regAt s.params.regmap (off.setWidth 32) = none := by
    rw [show s.params.regmap = bcm2835 from layout]
    exact regAt_default_none other
  exact ⟨runCommand_fault start (beginRegister_none start none_at _),
    fun v => runCommand_fault start (beginRegister_none start none_at _),
    fun m v => runCommand_fault start (beginRegister_none start none_at _)⟩

end Sys2Proof.Machine
end

section
/-! SUPPORT. REG_UPDATE_BITS as its read half and its write half (R12, R182, R183), and the two together on CS_A (R463): O16 and O17. -/

namespace Sys2Proof.Machine

/-! ## The two halves (R12, R182, R183) -/

/-- The first step reads, and leaves the write half to do with the word read. -/
theorem exec_regUpdateBits_read {s t : State} {off : BitVec 8} {r : Reg} {old : Word} (start : AtStart s)
    (at_off : regAt s.params.regmap (off.setWidth 32) = some r) (read : regRead r s = .ok old t) (mask val : Word) :
    exec (.regUpdateBits off mask val) s = .next { t with ctrl := ctrlOn t.ctrl [.updWrite r old mask val, .ret .ok] } := by
  have begins : beginRegUpdateBits off mask val s = .run s [.updRead r mask val, .ret .ok] := by
    simp only [beginRegUpdateBits, beginRegister_eq, at_off]
  have answers : access (.updRead r mask val) s = .done t [.updWrite r old mask val] := by
    simp only [access, actRead, read]
  simp only [exec, execRegUpdateBits]
  rw [runCommand_begin start begins, microStep_done rfl answers]
  exact goOn_access rfl 2 [.ret .ok] t

section
variable {s : State} {r : Reg} {mask val old : Word} (past : s.ctrl.m ≠ 0)
  (todo : s.ctrl.todo = [.updWrite r old mask val, .ret .ok]) (off : BitVec 8)
include past todo

/-- The second step is the write half and nothing else. -/
theorem exec_regUpdateBits_write :
    exec (.regUpdateBits off mask val) s = microStep 2 [.updWrite r old mask val, .ret .ok] s := by
  rw [exec_goesOn rfl past, todo]
  rfl

/-- The write half with nothing to change makes no access of the register, and the command ends. -/
theorem exec_regUpdateBits_same (same : updated old mask val = old) (unforced : s.params.updateAlwaysWrites = false) :
    exec (.regUpdateBits off mask val) s = .next { s with ctx := { s.ctx with result := .ok }, ctrl := ctrlPast s.ctrl 2 } := by
  have answers : access (.updWrite r old mask val) s = .done s [] := by
    simp [access, same, unforced]
  rw [exec_regUpdateBits_write past todo, microStep_done rfl answers]
  rfl

/-- Otherwise it answers what the register's write answers. -/
theorem exec_regUpdateBits_writes (writes : updated old mask val ≠ old ∨ s.params.updateAlwaysWrites = true) :
    exec (.regUpdateBits off mask val) s =
      match regWrite r (updated old mask val) s with
      | .ok _ t => .next { t with ctx := { t.ctx with result := .ok }, ctrl := ctrlPast t.ctrl 2 }
      | .fault f => .fault f
      | .refused x => .refused x := by
  rw [exec_regUpdateBits_write past todo, microStep_eq (runQuiet_access rfl _ _ _)]
  simp only [access, if_pos writes, actWrite]
  cases regWrite r (updated old mask val) s <;> rfl

end

/-- Settles O16: the first step is the read half, and the second answers what the write half's condition and write answer. -/
theorem updateBitsHalves : Obligations.UpdateBitsHalves := by
  refine ⟨fun s t off r mask val old start at_off read => exec_regUpdateBits_read start at_off read mask val, ?_⟩
  intro s off r mask val old past todo
  refine ⟨fun ⟨same, unforced⟩ => exec_regUpdateBits_same past todo off same unforced, fun writes => ?_⟩
  have answer := exec_regUpdateBits_writes past todo off writes
  refine ⟨fun t ok => ?_, fun f fault => ?_, fun x refused => ?_⟩
  · rw [answer, show regWrite r (updated old mask val) s = .ok () t from ok]
  · rw [answer, show regWrite r (updated old mask val) s = .fault f from fault]
  · rw [answer, show regWrite r (updated old mask val) s = .refused x from refused]

/-! ## Both halves on CS_A (R463) -/

/-- The CS_A and pipeline fields of a state after `UpdateBits` of CS_A read `old` and computed `new` (R182, R186, R463). -/
def csWrittenBack (old new : Word) (s : State) : State :=
  { s with
    pr := { s.pr with
      cs := ⟨new.getLsbD 0, new.getLsbD 1, new.getLsbD 2, new.extractLsb' 5 2, new.extractLsb' 7 2, new.getLsbD 9,
        if new ≠ old ∧ new.getLsbD 15 = true then false else s.pr.cs.txerr,
        if new ≠ old ∧ new.getLsbD 16 = true then false else s.pr.cs.rxerr,
        new.getLsbD 23, new.getLsbD 25⟩ }
    pipe := { s.pipe with
      clrTx := if new ≠ old ∧ new.getLsbD 3 = true ∧ s.pipe.clrTx = .none then .zero else s.pipe.clrTx
      clrRx := if new ≠ old ∧ new.getLsbD 4 = true ∧ s.pipe.clrRx = .none then .zero else s.pipe.clrRx
      syncW := if new ≠ old then new.getLsbD 24 else s.pipe.syncW
      syncCnt := if new ≠ old ∧ new.getLsbD 24 ≠ s.pipe.syncW then 0 else s.pipe.syncCnt } }

/-- Writing back nothing changes nothing: the word read holds the stored fields (R185). -/
theorem csWrittenBack_same {s : State} (layout : DefaultLayout s) (d : Word) : csWrittenBack (csValue s d) (csValue s d) s = s := by
  obtain ⟨en, rxon, txon, -, -, dmaen, -, -, rxsex, -, stby⟩ := csValue_stored layout d
  obtain ⟨txthr, rxthr⟩ := csValue_thresholds layout d
  simp only [csWrittenBack, ne_eq, not_true_eq_false, false_and, if_false, en, rxon, txon, dmaen, rxsex, stby, txthr, rxthr]

/-- Writing another word is the register's write (R186). -/
theorem writeOnBus_csWrittenBack {s : State} (layout : DefaultLayout s) {old new : Word} (changed : new ≠ old) :
    writeOnBus .csA new s = .ok () (csWrittenBack old new s) := by
  simp only [writeOnBus_csA layout, csWrittenBack, changed, ne_eq, not_false_eq_true, true_and, if_true]

/-- Between the halves: the draw of the read is taken and the write half waits with the word read (R12, R182). -/
def csReadDone (mask val : Word) (s : State) : State :=
  (s.setInputs (drawOf s.inputs).2).setCtrl
    (ctrlOn s.ctrl [.updWrite .csA (csValue s (drawOf s.inputs).1) mask val, .ret .ok])

theorem exec_csUpdate_read {s : State} (start : AtStart s) (layout : DefaultLayout s) (reliable : BusReliable s) (mask val : Word) :
    exec (.regUpdateBits 0x00#8 mask val) s = .next (csReadDone mask val s) := by
  have at_off : regAt s.params.regmap ((0x00#8).setWidth 32) = some .csA := by
    rw [show s.params.regmap = bcm2835 from layout]; decide
  exact exec_regUpdateBits_read start at_off (regRead_reliable reliable .csA) mask val

theorem exec_csUpdate_write {s : State} (layout : DefaultLayout s) (reliable : BusReliable s)
    (unforced : s.params.updateAlwaysWrites = false) (mask val : Word) :
    exec (.regUpdateBits 0x00#8 mask val) (csReadDone mask val s) =
      .next { csWrittenBack (csValue s (drawOf s.inputs).1) (updated (csValue s (drawOf s.inputs).1) mask val) s with
        ctx := { s.ctx with result := .ok }
        ctrl := ctrlPast s.ctrl 2
        inputs := (drawOf s.inputs).2 } := by
  have past : (csReadDone mask val s).ctrl.m ≠ 0 := Nat.succ_ne_zero _
  by_cases same : updated (csValue s (drawOf s.inputs).1) mask val = csValue s (drawOf s.inputs).1
  · rw [exec_regUpdateBits_same past rfl _ same unforced, same, csWrittenBack_same layout]
    rfl
  · have reliable' : BusReliable (csReadDone mask val s) := reliable
    have layout' : DefaultLayout (csReadDone mask val s) := layout
    rw [exec_regUpdateBits_writes past rfl _ (.inl same), regWrite_reliable reliable', writeOnBus_csWrittenBack layout' same]
    rfl

/-- Settles O17: the two halves in a row, the write half by whether the computed word is the word read. -/
theorem updateCsWhole : Obligations.UpdateCsWhole := by
  intro s mask val start layout reliable unforced
  exact ⟨csReadDone mask val s, _, _, exec_csUpdate_read start layout reliable mask val,
    exec_csUpdate_write layout reliable unforced mask val, regRead_reliable reliable .csA, rfl⟩

end Sys2Proof.Machine
end

section
/-! SUPPORT. Bus failures (R192, R415): which items of a sequence access a register, that such an access the oracle fails raises F_BUS,
behind register-only items too, and with it O18. -/

namespace Sys2Proof.Machine

/-! ## The primitives -/

/-- The fault is F_BUS (R414). -/
def isBus : Fault → Bool
  | .bus _ _ => true
  | _ => false

theorem readOnBus_notBus {r : Reg} {s : State} {f : Fault} (e : readOnBus r s = .fault f) : isBus f = false := by
  cases r <;> simp only [readOnBus, fifoPop] at e
  case fifoA =>
    split at e
    · split at e <;> cases e
    · cases e; rfl
  all_goals cases e

theorem writeOnBus_notBus {r : Reg} {v : Word} {s : State} {f : Fault} (e : writeOnBus r v s = .fault f) : isBus f = false := by
  cases r <;> simp only [writeOnBus, fifoPush] at e
  case fifoA =>
    split at e
    · split at e <;> cases e; rfl
    · cases e; rfl
  case modeA => split at e <;> cases e
  all_goals cases e

/-- Without `P_BUS_MAY_FAIL` no access fails (R192). -/
theorem reliable_notBus {s : State} (reliable : BusReliable s) (r : Reg) (v : Word) (site : Site) (off : Word) :
    regRead r s ≠ .fault (.bus site off) ∧ regWrite r v s ≠ .fault (.bus site off) := by
  rw [regRead_reliable reliable, regWrite_reliable reliable]
  exact ⟨fun e => Bool.noConfusion (readOnBus_notBus e), fun e => Bool.noConfusion (writeOnBus_notBus e)⟩

/-- The oracle answers the next access with a failure (R192). -/
def BusFails (s : State) : Prop := s.params.busMayFail = true ∧ (answerOf s.inputs).1 = false

/-- F_BUS on register `r`, raised where CTRL is (R414). -/
def busFault (s : State) (r : Reg) : Fault := .bus (ctrlSite s) (regOffset s.params.regmap r)

/-- The same at a command's start (R47). -/
def startFault (s : State) (r : Reg) : Fault := .bus (.ctrl s.ctrl.k 0) (regOffset s.params.regmap r)

section
variable {s : State} (fails : BusFails s)
include fails

theorem regRead_fails (r : Reg) : regRead r s = .fault (busFault s r) := by
  simp [regRead, busOk, fails.1, fails.2, busFault]

theorem regWrite_fails (r : Reg) (v : Word) : regWrite r v s = .fault (busFault s r) := by
  simp [regWrite, busOk, fails.1, fails.2, busFault]

theorem actRead_fails (r : Reg) (next : Word → State → Act) : actRead r s next = .fault (busFault s r) := by
  simp only [actRead, regRead_fails fails]

theorem actWrite_fails (r : Reg) (v : Word) (next : State → Act) : actWrite r v s next = .fault (busFault s r) := by
  simp only [actWrite, regWrite_fails fails]

end

/-! ## Items that access a register -/

/-- The item's access is one of register `r`: a write half of `UpdateBits` only if it writes (R180 to R182, R214, R250, R253, R254). -/
def AccessesReg (p : Params) (mi : Micro) (r : Reg) : Prop :=
  mi = .readReg r ∨ (∃ v, mi = .writeReg r v) ∨ (∃ m v, mi = .updRead r m v) ∨
    (∃ o m v, mi = .updWrite r o m v ∧ (updated o m v ≠ o ∨ p.updateAlwaysWrites = true)) ∨
    (r = .csA ∧ ((∃ tx rx, mi = .clearSave tx rx) ∨ mi = .clearEcho ∨ (∃ e n, mi = .clearPoll e (n + 1)) ∨
      ∃ b, mi = .syncStatus b)) ∨
    (r = .fifoA ∧ ((∃ n, mi = .prime (n + 1)) ∨ mi = .syncPush ∨ ∃ b, mi = .syncPop b))

section
variable {p : Params} {r : Reg}

theorem AccessesReg.readReg : AccessesReg p (.readReg r) r := .inl rfl

theorem AccessesReg.writeReg (v : Word) : AccessesReg p (.writeReg r v) r := .inr (.inl ⟨v, rfl⟩)

theorem AccessesReg.updRead (mask val : Word) : AccessesReg p (.updRead r mask val) r := .inr (.inr (.inl ⟨mask, val, rfl⟩))

theorem AccessesReg.clearSave (tx rx : Bool) : AccessesReg p (.clearSave tx rx) .csA :=
  .inr (.inr (.inr (.inr (.inl ⟨rfl, .inl ⟨tx, rx, rfl⟩⟩))))

theorem AccessesReg.prime (n : Nat) : AccessesReg p (.prime (n + 1)) .fifoA :=
  .inr (.inr (.inr (.inr (.inr ⟨rfl, .inl ⟨n, rfl⟩⟩))))

end

theorem AccessesReg.isAccess {p : Params} {mi : Micro} {r : Reg} (h : AccessesReg p mi r) : isAccess mi = true := by
  obtain rfl | ⟨v, rfl⟩ | ⟨m, v, rfl⟩ | ⟨o, m, v, rfl, -⟩ | ⟨-, ⟨tx, rx, rfl⟩ | rfl | ⟨e, n, rfl⟩ | ⟨b, rfl⟩⟩ |
    ⟨-, ⟨n, rfl⟩ | rfl | ⟨b, rfl⟩⟩ := h <;> rfl

/-- An item that accesses a register raises F_BUS where the oracle fails the access. -/
theorem AccessesReg.fails {s : State} {mi : Micro} {r : Reg} (h : AccessesReg s.params mi r) (fails : BusFails s) :
    access mi s = .fault (busFault s r) := by
  obtain rfl | ⟨v, rfl⟩ | ⟨m, v, rfl⟩ | ⟨o, m, v, rfl, writes⟩ | ⟨rfl, ⟨tx, rx, rfl⟩ | rfl | ⟨e, n, rfl⟩ | ⟨b, rfl⟩⟩ |
    ⟨rfl, ⟨n, rfl⟩ | rfl | ⟨b, rfl⟩⟩ := h
  · exact actRead_fails fails _ _
  · exact actWrite_fails fails _ _ _
  · exact actRead_fails fails _ _
  · exact (if_pos writes).trans (actWrite_fails fails _ _ _)
  · exact actRead_fails fails _ _
  · exact actRead_fails fails _ _
  · exact actRead_fails fails _ _
  · exact actRead_fails fails _ _
  · exact actWrite_fails fails _ _ _
  · exact actWrite_fails fails _ _ _
  · exact actRead_fails fails _ _

/-! ## Register-only items in front -/

/-- The items are register-only and none stops the command: each acts on the state the ones before it left (R12). -/
def Passes : List Micro → State → Prop
  | [], _ => True
  | mi :: rest, s => ∃ t, quiet mi s = .act t ∧ Passes rest t

/-- A sequence that passes comes to the access behind it. -/
theorem Passes.runQuiet {pre : List Micro} {s : State} (h : Passes pre s) {mi : Micro} (acc : isAccess mi = true) (n : Nat)
    (rest : List Micro) : ∃ u, runQuiet n (pre ++ mi :: rest) s = .access u mi rest := by
  induction pre generalizing s with
  | nil => exact ⟨s, runQuiet_access acc n rest s⟩
  | cons x xs ih =>
    obtain ⟨t, acts, passes⟩ := h
    obtain ⟨u, ready⟩ := ih passes
    exact ⟨u, (runQuiet_act acts n _).trans ready⟩

/-- A guard whose condition holds is passed. -/
theorem quiet_guardResolved {s : State} (h : s.ctx.resolved = true) : quiet .guardResolved s = .act s := by
  simp [quiet, guardThat, h]

theorem quiet_guardConfigured {s : State} (h : s.ctx.configured = true) : quiet .guardConfigured s = .act s := by
  simp [quiet, guardThat, h]

/-! ## One micro-operation -/

/-- A sequence that comes to a register access the oracle fails raises F_BUS: the items in front of it take no answer. -/
theorem microStep_fails {n : Nat} {todo rest : List Micro} {mi : Micro} {r : Reg} {s u : State}
    (ready : runQuiet n todo s = .access u mi rest) (acc : AccessesReg s.params mi r) (fails : BusFails s) :
    microStep n todo s = .fault (busFault s r) := by
  have frame := runQuiet_frame ready
  have params : u.params = s.params := by rw [frame]
  have fails' : BusFails u := by rw [frame]; exact fails
  have same : busFault u r = busFault s r := by rw [frame]; rfl
  rw [microStep_eq ready, AccessesReg.fails (params ▸ acc) fails', same]

theorem microStep_passes_fails {pre todo rest : List Micro} {mi : Micro} {r : Reg} {s : State} (seq : todo = pre ++ mi :: rest)
    (passes : Passes pre s) (acc : AccessesReg s.params mi r) (fails : BusFails s) (n : Nat) :
    microStep n todo s = .fault (busFault s r) := by
  obtain ⟨u, ready⟩ := passes.runQuiet acc.isAccess n rest
  exact microStep_fails (seq ▸ ready) acc fails

/-- A command whose first access is of a register raises F_BUS at its start. -/
theorem exec_begin_fails {i : Instr} {s t : State} {pre todo rest : List Micro} {mi : Micro} {r : Reg} (ctrl : cmdAgent i = .ctrl)
    (start : AtStart s) (begins : commandBegin i s = .run t todo) (seq : todo = pre ++ mi :: rest) (passes : Passes pre t)
    (acc : AccessesReg s.params mi r) (fails : BusFails s) : exec i s = .fault (startFault s r) := by
  have frame := commandBegin_frame begins
  have params : t.params = s.params := by rw [frame]
  have fails' : BusFails t := by rw [frame]; exact fails
  have same : busFault t r = busFault s r := by rw [frame]; rfl
  rw [exec_eq_runCommand ctrl, runCommand_begin start begins, microStep_passes_fails seq passes (params ▸ acc) fails', same, busFault,
    ctrlSite_start start, startFault]

/-! ## Commands at their start -/

section
variable {s : State} (start : AtStart s) (fails : BusFails s)
include start fails

/-- The three register commands fail on the register of their offset (R180, R181, R183). -/
theorem exec_register_fails {off : BitVec 8} {r : Reg} (at_off : regAt s.params.regmap (off.setWidth 32) = some r) :
    exec (.regRead off) s = .fault (startFault s r) ∧
      (∀ v, exec (.regWrite off v) s = .fault (startFault s r)) ∧
      ∀ m v, exec (.regUpdateBits off m v) s = .fault (startFault s r) := by
  have begins : ∀ seq : Reg → List Micro, beginRegister off seq s = .run s (seq r) := fun seq => by
    simp only [beginRegister_eq, at_off]
  exact ⟨exec_begin_fails rfl start (begins _) (pre := []) rfl trivial .readReg fails,
    fun v => exec_begin_fails rfl start (begins _) (pre := []) rfl trivial (.writeReg v) fails,
    fun m v => exec_begin_fails rfl start (begins _) (pre := []) rfl trivial (.updRead m v) fails⟩

theorem exec_clearRegisters_fails :
    exec .clearRegisters s = .fault (startFault s .modeA) :=
  exec_begin_fails rfl start rfl (pre := []) rfl trivial (.writeReg _) fails

/-- CONFIGURE of a slave profile has no clock step, so its first access writes MODE_A (R215, R216). -/
theorem exec_configure_fails (resolved : s.ctx.resolved = true) (slave : s.ctx.profile.bclkMaster = false) :
    exec .configure s = .fault (startFault s .modeA) := by
  have no_clock : clockSeq s.ctx.profile = [] := by simp [clockSeq, slave]
  have first : ∃ v rest, configureSeq s ++ [.ret .ok] = [.guardResolved] ++ .writeReg .modeA v :: rest :=
    ⟨_, _, by simp only [configureSeq, no_clock]; rfl⟩
  obtain ⟨v, rest, seq⟩ := first
  exact exec_begin_fails rfl start rfl seq ⟨s, quiet_guardResolved resolved, trivial⟩ (.writeReg v) fails

theorem exec_enable_fails (configured : s.ctx.configured = true) :
    exec .enable s = .fault (startFault s .csA) :=
  exec_begin_fails rfl start rfl (pre := [.guardConfigured]) rfl ⟨s, quiet_guardConfigured configured, trivial⟩
    (.updRead _ _) fails

theorem exec_clearFifos_fails (tx rx : Bool) :
    exec (.clearFifos tx rx) s = .fault (startFault s .csA) :=
  exec_begin_fails rfl start rfl (pre := []) rfl trivial (.clearSave tx rx) fails

theorem exec_syncFifos_fails (tx rx : Bool) :
    exec (.syncFifos tx rx) s = .fault (startFault s .csA) :=
  exec_begin_fails rfl start rfl (pre := []) rfl trivial (.updRead _ _) fails

/-- PRIME_TX_FIFO of a count other than 0 pushes (R253). -/
theorem exec_primeTxFifo_fails {n : BitVec 16} (some_word : n ≠ 0#16) :
    exec (.primeTxFifo n) s = .fault (startFault s .fifoA) := by
  obtain ⟨k, hk⟩ := Nat.exists_eq_succ_of_ne_zero (BitVec.toNat_ne_iff_ne.mpr some_word)
  have seq : [Micro.prime n.toNat, .ret .ok] = [] ++ .prime (k + 1) :: [.ret .ok] := by rw [hk]; rfl
  exact exec_begin_fails rfl start rfl seq trivial (.prime k) fails

/-- START's first access is an update of CS_A, the synchronizer's or the enables' (R340). -/
theorem exec_start_fails (configured : s.ctx.state = .configured) :
    exec .start s = .fault (startFault s .csA) := by
  have first : ∃ m v rest, startSeq s = .updRead .csA m v :: rest := by
    unfold startSeq
    split
    · exact ⟨_, _, _, rfl⟩
    · exact ⟨_, _, _, rfl⟩
  obtain ⟨m, v, rest, seq⟩ := first
  exact exec_begin_fails rfl start (if_pos configured) (pre := []) seq trivial (.updRead m v) fails

theorem exec_stop_fails (streaming : s.ctx.state = .streaming) :
    exec .stop s = .fault (startFault s .csA) :=
  exec_begin_fails rfl start rfl (pre := []) (if_pos streaming) trivial (.updRead _ _) fails

end

/-! ## Commands past their start -/

/-- The register-only items that stand in front of a register access in the commands' sequences pass (R12, R215, R250, R254, R332). -/
theorem passes_front {s : State} {pre : List Micro}
    (h : pre = [] ∨ pre = [.syncInit] ∨ pre = [.countRead] ∨ (∃ e, pre = [.clearPoll e 0]) ∨ (∃ w, pre = [.countPop w]) ∨
      (∃ w, pre = [.countPop w, .retain w]) ∨ (∃ b, pre = [.noteRate b]) ∨ (∃ b, pre = [.setConfigured b]) ∨
      (pre = [.guardResolved] ∧ s.ctx.resolved = true) ∨ (pre = [.guardConfigured] ∧ s.ctx.configured = true) ∨
      (∃ b, pre = [.setConfigured b, .guardResolved] ∧ s.ctx.resolved = true) ∨ pre = [.setConfigured true, .guardConfigured]) :
    Passes pre s := by
  obtain rfl | rfl | rfl | ⟨e, rfl⟩ | ⟨w, rfl⟩ | ⟨w, rfl⟩ | ⟨b, rfl⟩ | ⟨b, rfl⟩ | ⟨rfl, resolved⟩ | ⟨rfl, configured⟩ |
    ⟨b, rfl, resolved⟩ | rfl := h
  · trivial
  · exact ⟨_, rfl, trivial⟩
  · exact ⟨_, rfl, trivial⟩
  · exact ⟨_, rfl, trivial⟩
  · exact ⟨_, rfl, trivial⟩
  · exact ⟨_, rfl, _, rfl, trivial⟩
  · exact ⟨_, rfl, trivial⟩
  · exact ⟨_, rfl, trivial⟩
  · exact ⟨s, quiet_guardResolved resolved, trivial⟩
  · exact ⟨s, quiet_guardConfigured configured, trivial⟩
  · exact ⟨_, rfl, _, quiet_guardResolved resolved, trivial⟩
  · exact ⟨_, rfl, _, quiet_guardConfigured rfl, trivial⟩

/-- Settles O18: no access fails of itself; a command fails where its sequence, at its start or as it waits, comes to a register access. -/
theorem busFailure : Obligations.BusFailure := by
  refine ⟨fun s r v site off reliable => reliable_notBus reliable r v site off, fun s may answer => ?_⟩
  have fails : BusFails s := ⟨may, answer⟩
  refine ⟨fun r v => ⟨regRead_fails fails r, regWrite_fails fails r v⟩, fun start => ?_, fun i mi r ctrl past comes acc => ?_⟩
  · exact ⟨fun off r at_off => exec_register_fails start fails at_off, exec_clearRegisters_fails start fails,
      exec_configure_fails start fails, exec_enable_fails start fails,
      fun tx rx => ⟨exec_clearFifos_fails start fails tx rx, exec_syncFifos_fails start fails tx rx⟩,
      fun n some_word => exec_primeTxFifo_fails start fails some_word, exec_start_fails start fails, exec_stop_fails start fails⟩
  · rw [exec_goesOn ctrl past]
    obtain next | ⟨pre, rest, todo, front⟩ := comes
    · obtain ⟨u, rest, ready⟩ := nextAccess_runQuiet next (operandWords i)
      exact microStep_fails ready acc fails
    · exact microStep_passes_fails todo (passes_front front) acc fails _

end Sys2Proof.Machine
end

section
/-! SUPPORT. The command words the spec writes out (R180, R181, R210, R253, R254, R291, R320, R332, R340, R341, R350, R352): O3. -/

namespace Sys2Proof

/-- Settles O3: twelve literal words. -/
theorem decodedWords : Obligations.DecodedWords := by
  refine ⟨?_, ?_, ?_, ?_, ?_, ?_, ?_, ?_, ?_, ?_, ?_, ?_⟩ <;> decide

end Sys2Proof
end

section
/-! SUPPORT. A command's items in order: what each register access of a sequence answers with a reliable bus, `UpdateBits` as the two
micro-operations it is, and a failing guard (R12, R47, R181, R182, R415). -/

namespace Sys2Proof.Machine

/-! ## Where a command is in its sequence -/

/-- `todo` is what the command does next: at its start, its guard passed, or where it waits (R47). -/
def NextItems (i : Instr) (todo : List Micro) (s : State) : Prop := exec i s = microStep (operandWords i) todo s

/-- The command's micro-operation in `s` is done in `t`, and `rest` is left: it decides whether the command waits or ends (R12, R47). -/
def GoesOn (i : Instr) (rest : List Micro) (s t : State) : Prop := exec i s = goOn (operandWords i) rest t

/-- `s` with its command under way: the registers, pipelines and inputs its accesses have left, `m` of them counted, `todo` left (R47). -/
def State.underway (s : State) (pr : Peripheral) (pipe : Pipe) (inputs : Inputs) (m : Nat) (todo : List Micro) : State :=
  { s with pr := pr, pipe := pipe, inputs := inputs, ctrl := { s.ctrl with m := m, todo := todo } }

/-- `s` itself, its command under way, each register named. -/
def State.begun (s : State) : State :=
  s.underway ⟨s.pr.cs, s.pr.mode, s.pr.rxc, s.pr.txc, s.pr.dreq, s.pr.inten, s.pr.intstc⟩ s.pipe s.inputs s.ctrl.m s.ctrl.todo

theorem State.begun_eq (s : State) : s.begun = s := rfl

theorem nextItems_start {i : Instr} {s : State} {todo : List Micro} (ctrl : cmdAgent i = .ctrl) (start : AtStart s)
    (begins : commandBegin i s = .run s todo) : NextItems i todo s :=
  (exec_eq_runCommand ctrl s).trans (runCommand_begin start begins)

theorem execFor_one (i : Instr) (s : State) : execFor i 1 s = exec i s := by
  simp only [execFor]
  cases exec i s <;> rfl

/-- One micro-operation more in front of a run. -/
theorem execFor_step {i : Instr} {n : Nat} {s t : State} {o : Host.Outcome State Fault Refusal} (h : exec i s = .next t)
    (run : execFor i n t = o) : execFor i (n + 1) s = o :=
  (execFor_succ h n).trans run

section
variable {i : Instr} {mi next : Micro} {rest more todo : List Micro} {s t u : State}

/-- An access is next: the command waits for it. -/
theorem GoesOn.waits {pr : Peripheral} {pipe : Pipe} {inputs : Inputs} {m : Nat}
    (goes : GoesOn i (next :: rest) s (t.underway pr pipe inputs m todo)) (ctrl : cmdAgent i = .ctrl) (acc : isAccess next = true) :
    exec i s = .next (t.underway pr pipe inputs (m + 1) (next :: rest)) ∧
      NextItems i (next :: rest) (t.underway pr pipe inputs (m + 1) (next :: rest)) :=
  ⟨Eq.trans goes (goOn_access acc _ _ _), exec_goesOn ctrl (Nat.succ_ne_zero _)⟩

/-- A guard in front of the sequence is passed (R415). -/
theorem NextItems.pass (here : NextItems i (mi :: rest) s) (acts : quiet mi s = .act s) : NextItems i rest s := by
  have same : microStep (operandWords i) (mi :: rest) s = microStep (operandWords i) rest s := by
    simp only [microStep, runQuiet_act acts]
  exact Eq.trans here same

/-- The access the sequence comes to is done. -/
theorem NextItems.done (here : NextItems i todo s) (ready : runQuiet (operandWords i) todo s = .access u mi rest)
    (answers : access mi u = .done t more) : GoesOn i (more ++ rest) s t := by
  rw [GoesOn, show exec i s = _ from here, microStep_eq ready, answers]

end

/-! ## Register accesses of a sequence (R181, R182) -/

/-- A write of `v` to register `r` is let through, and takes the registers from `pr` to `pr'` and nothing else (R186, R189, R190). -/
def RegStores (p : Params) (r : Reg) (v : Word) (pr pr' : Peripheral) : Prop :=
  ∀ s : State, s.params = p → s.pr = pr → writeOnBus r v s = .ok () (s.setPr pr')

section
variable {i : Instr} {r : Reg} {rest todo : List Micro} {s : State} {pr pr' : Peripheral} {pipe : Pipe} {inputs : Inputs} {m : Nat}
  {v old mask val : Word}

/-- A write of a register (R181). -/
theorem NextItems.writeReg (here : NextItems i (.writeReg r v :: rest) (s.underway pr pipe inputs m todo))
    (reliable : BusReliable s) (stores : RegStores s.params r v pr pr') :
    GoesOn i rest (s.underway pr pipe inputs m todo) (s.underway pr' pipe inputs m todo) := by
  have answers : access (.writeReg r v) (s.underway pr pipe inputs m todo) = .done (s.underway pr' pipe inputs m todo) [] := by
    simp only [access, actWrite, regWrite_reliable (s := s.underway pr pipe inputs m todo) reliable,
      stores (s.underway pr pipe inputs m todo) rfl rfl]
    rfl
  exact here.done (runQuiet_access rfl _ _ _) answers

/-- The read half of an `UpdateBits`: its write half waits with the word read. -/
theorem NextItems.updRead (here : NextItems i (.updRead r mask val :: rest) (s.underway pr pipe inputs m todo))
    (reliable : BusReliable s)
    (reads : readOnBus r (s.underway pr pipe inputs m todo) = .ok old (s.underway pr pipe (drawOf inputs).2 m todo)) :
    GoesOn i (.updWrite r old mask val :: rest) (s.underway pr pipe inputs m todo) (s.underway pr pipe (drawOf inputs).2 m todo) := by
  have answers : access (.updRead r mask val) (s.underway pr pipe inputs m todo) =
      .done (s.underway pr pipe (drawOf inputs).2 m todo) [.updWrite r old mask val] := by
    simp only [access, actRead, regRead_reliable (s := s.underway pr pipe inputs m todo) reliable, reads]
  exact here.done (runQuiet_access rfl _ _ _) answers

/-- The write half of an `UpdateBits` of a register in which writing back the word read changes nothing. -/
theorem NextItems.updWrite (here : NextItems i (.updWrite r old mask val :: rest) (s.underway pr pipe inputs m todo))
    (reliable : BusReliable s) (stores : RegStores s.params r (updated old mask val) pr pr')
    (idle : updated old mask val = old → pr' = pr) :
    GoesOn i rest (s.underway pr pipe inputs m todo) (s.underway pr' pipe inputs m todo) := by
  have answers : access (.updWrite r old mask val) (s.underway pr pipe inputs m todo) =
      .done (s.underway pr' pipe inputs m todo) [] := by
    by_cases writing : updated old mask val ≠ old ∨ (s.underway pr pipe inputs m todo).params.updateAlwaysWrites = true
    · simp only [access, if_pos writing, actWrite, regWrite_reliable (s := s.underway pr pipe inputs m todo) reliable,
        stores (s.underway pr pipe inputs m todo) rfl rfl]
      rfl
    · simp only [access, if_neg writing, idle (not_not.mp (not_or.mp writing).1)]
  exact here.done (runQuiet_access rfl _ _ _) answers

end

/-! ## `UpdateBits` of CS_A in a sequence (R182, R220, R223) -/

/-- What an `UpdateBits` of CS_A leaves of CS_A and the pipelines: both as they were where it is `idle`, else the `fields` it writes,
with SYNC carried back as it was read. -/
def CsLeft (idle : Prop) (fields : CsA) (cs cs' : CsA) (pipe pipe' : Pipe) : Prop :=
  (idle → cs' = cs ∧ pipe' = pipe) ∧ (¬idle → cs' = fields ∧ pipe' = echoBack pipe)

/-- The mask names only fields that CS_A stores as they are written: neither a clear, nor a flag, nor SYNC (R186). -/
def StoredMask (mask : Word) : Prop :=
  mask &&& ~~~0x030003FF#32 = 0#32 ∧ mask.getLsbD 3 = false ∧ mask.getLsbD 4 = false ∧ mask.getLsbD 24 = false

/-- The masks of CONFIGURE's thresholds and ENABLE's STBY and EN (R220, R223). -/
theorem storedMask_thresholds : StoredMask 0x3E0#32 := by unfold StoredMask; decide
theorem storedMask_stby : StoredMask 0x2000000#32 := by unfold StoredMask; decide
theorem storedMask_en : StoredMask 0x1#32 := by unfold StoredMask; decide

/-- `UpdateBits` of CS_A, no other agent stepping between its halves. -/
theorem NextItems.csUpdate {i : Instr} {s : State} {cs : CsA} {mode rxc txc dreq inten intstc : Word} {pipe : Pipe} {inputs : Inputs}
    {m : Nat} {rest todo : List Micro} {mask val : Word}
    (here : NextItems i (.updRead .csA mask val :: rest) (s.underway ⟨cs, mode, rxc, txc, dreq, inten, intstc⟩ pipe inputs m todo))
    (ctrl : cmdAgent i = .ctrl) (layout : DefaultLayout s) (reliable : BusReliable s) (stored : StoredMask mask) :
    let u := s.underway ⟨cs, mode, rxc, txc, dreq, inten, intstc⟩ pipe inputs m todo
    ∃ cs' pipe' todo',
      CsLeft (s.params.updateAlwaysWrites = false ∧ csSame mask val u) (csPicked mask val u) cs cs' pipe pipe' ∧
      exec i u = .next (s.underway ⟨cs, mode, rxc, txc, dreq, inten, intstc⟩ pipe (drawOf inputs).2 (m + 1) todo') ∧
      GoesOn i rest (s.underway ⟨cs, mode, rxc, txc, dreq, inten, intstc⟩ pipe (drawOf inputs).2 (m + 1) todo')
        (s.underway ⟨cs', mode, rxc, txc, dreq, inten, intstc⟩ pipe' (drawOf inputs).2 (m + 1) todo') := by
  intro u
  obtain ⟨settable, no_txclr, no_rxclr, no_sync⟩ := stored
  obtain ⟨read, -⟩ := (here.updRead reliable (r := .csA) rfl).waits ctrl rfl
  obtain ⟨same, writes⟩ := exec_csWrite (u := u) (rest := rest)
    (s := s.underway ⟨cs, mode, rxc, txc, dreq, inten, intstc⟩ pipe (drawOf inputs).2 (m + 1) _)
    ctrl (Nat.succ_ne_zero _) rfl layout reliable rfl rfl rfl settable
  by_cases idle : s.params.updateAlwaysWrites = false ∧ csSame mask val u
  · exact ⟨cs, pipe, _, ⟨fun _ => ⟨rfl, rfl⟩, fun other => absurd idle other⟩, read, same idle.2 idle.1⟩
  · have changes : ¬csSame mask val u ∨ s.params.updateAlwaysWrites = true := by
      rw [← Bool.not_eq_false, ← not_and_or]
      exact fun ⟨agrees, unforced⟩ => idle ⟨unforced, agrees⟩
    exact ⟨csPicked mask val u, pipePicked mask val pipe, _,
      ⟨fun kept => absurd kept idle, fun _ => ⟨rfl, pipePicked_keep no_txclr no_rxclr no_sync val pipe⟩⟩, read, writes changes⟩

/-! ## Failing guards (R415) -/

theorem guardThat_false {ok : Bool} (h : ok = false) (c : Cmd) (s : State) :
    guardThat ok c s = .fault (.illegalState (ctrlSite s) c) := by rw [guardThat, h]; rfl

/-- A guard fails in front of a sequence. -/
theorem microStep_guard {s : State} {mi : Micro} {f : Fault} (h : quiet mi s = .fault f) (n : Nat) (rest : List Micro) :
    microStep n (mi :: rest) s = .fault f := by
  have stops : runQuiet n (mi :: rest) s = .fault f := by
    cases mi <;> first | (simp only [runQuiet, h]; done) | cases h
  simp only [microStep, stops]

/-- A command whose sequence begins with a guard that does not hold faults before any access. -/
theorem exec_guard_fault {i : Instr} {s : State} {mi : Micro} {ok : Bool} {c : Cmd} {rest : List Micro} (ctrl : cmdAgent i = .ctrl)
    (start : AtStart s) (begins : commandBegin i s = .run s (mi :: rest)) (guards : quiet mi s = guardThat ok c s) (fails : ok = false) :
    exec i s = .fault (.illegalState (.ctrl s.ctrl.k 0) c) := by
  rw [exec_eq_runCommand ctrl, runCommand_begin start begins, ← ctrlSite_start start]
  exact microStep_guard (guards.trans (guardThat_false fails c s)) _ _

/-- A command whose beginning is its guard's fault. -/
theorem exec_badState {i : Instr} {s : State} {c : Cmd} (ctrl : cmdAgent i = .ctrl) (start : AtStart s)
    (begins : commandBegin i s = badState c s) : exec i s = .fault (.illegalState (.ctrl s.ctrl.k 0) c) := by
  rw [exec_eq_runCommand ctrl, runCommand_fault start begins, ctrlSite_start start]

end Sys2Proof.Machine
end

section
/-! SUPPORT. Launches that are not refused, and the words the configurator writes on the default layout (R212, R217 to R221, R416). -/

namespace Sys2Proof.Machine

/-! ## Launch parameters in range (R416) -/

/-- Slot positions a launch may have: two slots of 32 clocks that fit the frame (R212). -/
def Permitted (pos : Nat × Nat) : Prop := pos.1 ≤ 31 ∧ pos.2 = pos.1 + 32

/-- A launch that is not refused has its positions and its levels in range (R416 items 5 and 6). -/
theorem launchRefusal_none {p : Params} (h : launchRefusal p = none) : positionsOk p = true ∧ levelsOk p = true := by
  rw [launchRefusal] at h
  cases positions : positionsOk p
  · rw [positions] at h
    split at h <;> cases h
  · cases levels : levelsOk p
    · rw [positions, levels] at h
      split at h <;> cases h
    · exact ⟨rfl, rfl⟩

theorem positionOk_iff (lo : Nat) (pos : Nat × Nat) : positionOk lo pos = true ↔ lo ≤ pos.1 ∧ Permitted pos := by
  simp only [positionOk, Permitted, Bool.and_eq_true, decide_eq_true_eq, beq_iff_eq, and_assoc]

/-- The positions of the three profiles; the slot-shifted profile's begin at 1 or later (R212). -/
theorem positions_of_launch {p : Params} (h : launchRefusal p = none) :
    Permitted p.posDefault ∧ (1 ≤ p.posShifted.1 ∧ Permitted p.posShifted) ∧ Permitted p.posBcp := by
  simpa only [positionsOk, Bool.and_eq_true, positionOk_iff, Nat.zero_le, true_and, and_assoc] using (launchRefusal_none h).1

/-- The four levels and the two threshold codes (R221). -/
theorem levels_of_launch {p : Params} (h : launchRefusal p = none) :
    p.dreqRx ≤ 127 ∧ p.dreqTx ≤ 127 ∧ p.panicRx ≤ 127 ∧ p.panicTx ≤ 127 ∧ p.rxThr ≤ 3 ∧ p.txThr ≤ 3 := by
  have levels := (launchRefusal_none h).2
  simp only [levelsOk, Bool.and_eq_true, decide_eq_true_eq, and_assoc] at levels
  obtain ⟨dreqRx, dreqTx, panicRx, panicTx, rxThr, txThr, -⟩ := levels
  exact ⟨dreqRx, dreqTx, panicRx, panicTx, rxThr, txThr⟩

/-! ## `UpdateBits` of a plain register (R59, R182) -/

theorem updated_clear (old mask : Word) : updated old mask 0#32 = old &&& ~~~mask := by simp [updated]

theorem updated_set (old mask : Word) : updated old mask mask = old ||| mask := by
  apply BitVec.eq_of_getLsbD_eq
  intro i _
  rw [updated_getLsbD, BitVec.getLsbD_or]
  cases mask.getLsbD i <;> simp

/-- The draw of a read does not reach the bits that are not reserved (R59). -/
theorem plainValue_known (known stored d : Word) : plainValue known stored d &&& known = stored &&& known := by
  apply BitVec.eq_of_getLsbD_eq
  intro i hi
  simp only [plainValue, BitVec.getLsbD_and, BitVec.getLsbD_or, BitVec.getLsbD_not, hi]
  cases known.getLsbD i <;> simp

/-- A word with no bit outside a mask is its part under the mask. -/
theorem and_eq_self_of_reserved {v known : Word} (h : v &&& ~~~known = 0#32) : v &&& known = v := by
  calc v &&& known = v &&& known ||| v &&& ~~~known := by rw [h, BitVec.or_zero]
    _ = v &&& (known ||| ~~~known) := BitVec.and_or_distrib_left.symm
    _ = v := by rw [BitVec.or_not_self, BitVec.and_allOnes]

/-! ## What a write stores, in any layout (R59, R189, R190) -/

section
variable {p : Params} {v stored : Word} {cs : CsA} {mode rxc txc dreq inten intstc : Word}

/-- A write of MODE_A that names no mode the model refuses. -/
theorem regStores_modeA (h : v &&& modeRefused p.regmap.mode = 0#32 ∧ v &&& modeKnown p.regmap.mode = stored) :
    RegStores p .modeA v ⟨cs, mode, rxc, txc, dreq, inten, intstc⟩ ⟨cs, stored, rxc, txc, dreq, inten, intstc⟩ := by
  rintro s rfl pr
  simp only [writeOnBus, if_pos h.1, h.2, pr]

theorem regStores_rxcA (h : v &&& formatKnown p.regmap.fmt = stored) :
    RegStores p .rxcA v ⟨cs, mode, rxc, txc, dreq, inten, intstc⟩ ⟨cs, mode, stored, txc, dreq, inten, intstc⟩ := by
  rintro s rfl pr
  simp only [writeOnBus, h, pr]

theorem regStores_txcA (h : v &&& formatKnown p.regmap.fmt = stored) :
    RegStores p .txcA v ⟨cs, mode, rxc, txc, dreq, inten, intstc⟩ ⟨cs, mode, rxc, stored, dreq, inten, intstc⟩ := by
  rintro s rfl pr
  simp only [writeOnBus, h, pr]

theorem regStores_dreqA (h : v &&& dreqKnown p.regmap.dreq = stored) :
    RegStores p .dreqA v ⟨cs, mode, rxc, txc, dreq, inten, intstc⟩ ⟨cs, mode, rxc, txc, stored, inten, intstc⟩ := by
  rintro s rfl pr
  simp only [writeOnBus, h, pr]

theorem regStores_intenA (h : v &&& intKnown p.regmap.int = stored) :
    RegStores p .intenA v ⟨cs, mode, rxc, txc, dreq, inten, intstc⟩ ⟨cs, mode, rxc, txc, dreq, stored, intstc⟩ := by
  rintro s rfl pr
  simp only [writeOnBus, h, pr]

end

/-! ## CONFIGURE's words (R217 to R221) -/

/-- The mask of a whole two-bit field keeps it. -/
theorem and_three (x : BitVec 2) : x &&& 3#2 = x := BitVec.and_allOnes

/-- The fields of the value CONFIGURE gives CS_A, the two codes in range (R220). -/
theorem thresholdVal_fields {p : Params} (rx : p.rxThr ≤ 3) (tx : p.txThr ≤ 3) :
    (thresholdVal bcmCs p).extractLsb' 5 2 = BitVec.ofNat 2 p.txThr ∧ (thresholdVal bcmCs p).extractLsb' 7 2 = BitVec.ofNat 2 p.rxThr ∧
      (thresholdVal bcmCs p).getLsbD 9 = true := by
  have all : ∀ r ≤ 3, ∀ t ≤ 3,
      let v := thresholdVal bcmCs { vectorParams with rxThr := r, txThr := t }
      v.extractLsb' 5 2 = BitVec.ofNat 2 t ∧ v.extractLsb' 7 2 = BitVec.ofNat 2 r ∧ v.getLsbD 9 = true := by decide
  exact all p.rxThr rx p.txThr tx

/-- A two-bit field is its two bits. -/
theorem two_bits_eq_iff {w : Word} {x : BitVec 2} {lo : Nat} :
    w.extractLsb' lo 2 = x ↔ w.getLsbD lo = x.getLsbD 0 ∧ w.getLsbD (lo + 1) = x.getLsbD 1 := by
  refine ⟨fun h => ?_, fun h => two_bits_eq h.1 h.2⟩
  subst h
  simp

theorem csSame_thresholds {s : State} {val : Word} (dmaen : val.getLsbD 9 = true) :
    csSame 0x3E0#32 val s ↔ s.pr.cs.txthr = val.extractLsb' 5 2 ∧ s.pr.cs.rxthr = val.extractLsb' 7 2 ∧ s.pr.cs.dmaen = true := by
  rw [eq_comm (a := s.pr.cs.txthr), eq_comm (a := s.pr.cs.rxthr), two_bits_eq_iff, two_bits_eq_iff]
  have bit : val[9] = true := by simpa using dmaen
  simp [csSame, bit, and_assoc, eq_comm (a := true)]

theorem csPicked_thresholds {s : State} {val : Word} (dmaen : val.getLsbD 9 = true) :
    csPicked 0x3E0#32 val s =
      { s.pr.cs with txthr := val.extractLsb' 5 2, rxthr := val.extractLsb' 7 2, dmaen := true, txerr := false, rxerr := false } := by
  simp [csPicked, pick, pick2, and_three, dmaen]

/-- The bundle of a profile: the two lengths of the table, both clocks given or both taken, and its slot positions (R212). -/
def Bundles (p : Profile) (provider : Bool) (pos : Nat × Nat) : Prop :=
  p.frameLen = 64#10 ∧ p.fsLen = 32#10 ∧ p.bclkMaster = provider ∧ p.fsMaster = provider ∧ p.ch1Pos = BitVec.ofNat 9 pos.1 ∧
    p.ch2Pos = BitVec.ofNat 9 pos.2

/-- The two slave profiles. -/
theorem bundles_slave (p : Params) {id : BitVec 8} (slave : id.toNat < 2) :
    Bundles (profileBundle p id) false (if id = 0#8 then p.posDefault else p.posShifted) := by
  obtain rfl | rfl : id = 0#8 ∨ id = 1#8 := by
    simp only [← BitVec.toNat_inj, BitVec.toNat_ofNat]; omega
  · exact ⟨rfl, rfl, rfl, rfl, rfl, rfl⟩
  · exact ⟨rfl, rfl, rfl, rfl, rfl, rfl⟩

/-- The bit-clock-provider. -/
theorem bundles_bcp (p : Params) : Bundles (profileBundle p 2#8) true p.posBcp := ⟨rfl, rfl, rfl, rfl, rfl, rfl⟩

/-- The format word of a pair of slot positions on the default layout: both slots enabled, 32 bits wide (R54, R218). -/
def formatWord (pos : Nat × Nat) : Word := 0xC008C008#32 ||| BitVec.ofNat 32 (pos.1 * 2 ^ 20) ||| BitVec.ofNat 32 (pos.2 * 2 ^ 4)

/-- `FMTVAL` of a bundle with permitted positions (R212, R218). -/
theorem formatVal_eq {p : Profile} {provider : Bool} {pos : Nat × Nat} (bundle : Bundles p provider pos) (permitted : Permitted pos) :
    formatVal bcmFormat p = formatWord pos := by
  have all : ∀ c ≤ 31, formatVal bcmFormat (slaveBundle 0#8 (c, c + 32)) = formatWord (c, c + 32) := by decide
  obtain ⟨-, -, -, -, ch1, ch2⟩ := bundle
  simp only [formatVal, ch1, ch2, permitted.2, formatWord]
  exact all pos.1 permitted.1

/-- The format word of permitted positions is one a SLOT step runs (R373). -/
theorem formatBits_formatWord {pos : Nat × Nat} (permitted : Permitted pos) : FormatBits (formatWord pos) := by
  have all : ∀ c ≤ 31, FormatBits (formatWord (c, c + 32)) := by
    unfold FormatBits
    decide
  simp only [formatWord, permitted.2]
  exact all pos.1 permitted.1

/-- The mode word of the table's bundles, by whether the block provides the clocks (R217). -/
def modeWord : Bool → Word
  | true => 0x0010FC20#32
  | false => 0x00B0FC20#32

/-- `MODEVAL` of a bundle of the table (R212, R217). -/
theorem modeVal_eq {p : Profile} {provider : Bool} {pos : Nat × Nat} (bundle : Bundles p provider pos) :
    modeVal bcmMode p = modeWord provider := by
  obtain ⟨frame, sync, clock, frame_sync, -, -⟩ := bundle
  simp only [modeVal, frame, sync, clock, frame_sync]
  cases provider <;> decide

/-- A mode word with no reserved bit, no mode the model refuses, and CLK_DIS at 0 (R53, R189). -/
def ModeRuns (v : Word) : Prop := v &&& 0x00BFFFFF#32 = v

section
variable {s : State} (layout : DefaultLayout s) {v : Word} (runs : ModeRuns v)
include layout runs

/-- A mode word that runs is let through and stored whole (R189). -/
theorem modeRuns_stored : v &&& modeRefused s.params.regmap.mode = 0#32 ∧ v &&& modeKnown s.params.regmap.mode = v := by
  rw [ModeRuns] at runs
  rw [modeRefused_default layout, modeKnown_default layout, ← runs]
  simp [BitVec.and_assoc]

/-- CLK_DIS cleared in it: the word written back is let through and stores the same, whatever the draw of the read (R59, R219). -/
theorem modeRuns_clkDis (d : Word) :
    let w := updated (plainValue (modeKnown s.params.regmap.mode) v d) 0x10000000#32 0#32
    w &&& modeRefused s.params.regmap.mode = 0#32 ∧ w &&& modeKnown s.params.regmap.mode = v := by
  rw [ModeRuns] at runs
  rw [modeRefused_default layout, modeKnown_default layout, updated_clear, plainValue, ← runs]
  simp [BitVec.and_or_distrib_right, BitVec.and_assoc]

end

/-- The format registers have no reserved bit on the default layout (R54). -/
theorem format_stored {s : State} (layout : DefaultLayout s) (v : Word) : v &&& formatKnown s.params.regmap.fmt = v := by
  rw [formatKnown_default layout]
  exact BitVec.and_allOnes

/-- The table's mode words run, with frames of 64 clocks (R217, R373). -/
theorem modeWord_runs (provider : Bool) : ModeRuns (modeWord provider) ∧ (modeWord provider).extractLsb' 10 10 = 63#10 := by
  unfold ModeRuns
  cases provider <;> decide

/-- A number that fits its field, placed in it. -/
theorem fieldPut_toNat {lo w x : Nat} (fits : x < 2 ^ w) (inside : w + lo ≤ 32) :
    (fieldPut ⟨lo, w⟩ (BitVec.ofNat 32 x)).toNat = x <<< lo := by
  have word : 2 ^ w ≤ 2 ^ 32 := Nat.pow_le_pow_right (by decide) (by omega)
  have shifted : x <<< lo < 2 ^ 32 := by
    rw [Nat.shiftLeft_eq]
    calc x * 2 ^ lo < 2 ^ w * 2 ^ lo := Nat.mul_lt_mul_of_pos_right fits (by positivity)
      _ = 2 ^ (w + lo) := (Nat.pow_add ..).symm
      _ ≤ 2 ^ 32 := Nat.pow_le_pow_right (by decide) inside
  simp only [fieldPut, BitVec.toNat_shiftLeft, BitVec.toNat_and, BitVec.toNat_ofNat, Nat.mod_eq_of_lt (show 2 ^ w - 1 < 2 ^ 32 by omega),
    Nat.and_two_pow_sub_one_eq_mod, Nat.mod_eq_of_lt (show x < 2 ^ 32 by omega), Nat.mod_eq_of_lt fits, Nat.mod_eq_of_lt shifted]

/-- `DREQVAL` as the sum of its four levels, each in its byte (R55, R221). -/
theorem dreqVal_eq {p : Params} (rx : p.dreqRx ≤ 127) (tx : p.dreqTx ≤ 127) (panicRx : p.panicRx ≤ 127)
    (panicTx : p.panicTx ≤ 127) :
    dreqVal bcmDreq p = BitVec.ofNat 32 (p.panicTx * 2 ^ 24 + p.panicRx * 2 ^ 16 + p.dreqTx * 2 ^ 8 + p.dreqRx) := by
  have low : p.dreqTx <<< 8 + p.dreqRx = p.dreqTx <<< 8 ||| p.dreqRx := Nat.shiftLeft_add_eq_or_of_lt (by omega) _
  have mid : p.panicRx <<< 16 + (p.dreqTx <<< 8 + p.dreqRx) = p.panicRx <<< 16 ||| (p.dreqTx <<< 8 + p.dreqRx) :=
    Nat.shiftLeft_add_eq_or_of_lt (by omega) _
  have high : p.panicTx <<< 24 + (p.panicRx <<< 16 + (p.dreqTx <<< 8 + p.dreqRx)) =
      p.panicTx <<< 24 ||| (p.panicRx <<< 16 + (p.dreqTx <<< 8 + p.dreqRx)) := Nat.shiftLeft_add_eq_or_of_lt (by omega) _
  apply BitVec.eq_of_toNat_eq
  have field : ∀ {x lo}, x ≤ 127 → 7 + lo ≤ 32 → (fieldPut ⟨lo, 7⟩ (BitVec.ofNat 32 x)).toNat = x <<< lo := fun le inside =>
    fieldPut_toNat (Nat.lt_succ_of_le le) inside
  simp only [dreqVal, bcmDreq, BitVec.toNat_or, field rx, field tx, field panicRx, field panicTx, Nat.reduceAdd, Nat.reduceLeDiff,
    Nat.shiftLeft_zero, Nat.or_assoc, ← low, ← mid, ← high, BitVec.toNat_ofNat]
  omega

/-- `DREQVAL` has no reserved bit (R55, R221). -/
theorem dreqVal_stored {s : State} (layout : DefaultLayout s) :
    dreqVal bcmDreq s.params &&& dreqKnown s.params.regmap.dreq = dreqVal bcmDreq s.params := by
  rw [dreqKnown_default layout]
  simp only [dreqVal, bcmDreq, fieldPut, BitVec.shiftLeft_and_distrib, BitVec.and_or_distrib_right, BitVec.and_assoc]
  rfl

end Sys2Proof.Machine
end

section
/-! SUPPORT. The profile resolver and the configurator: O19 to O25. -/

namespace Sys2Proof.Machine

/-! ## RESOLVE and the profile table (R210 to R213) -/

theorem profileIdOf_eq {p : Params} {b : BitVec 8} (h : b.toNat < 3 ∨ p.unknownProfile = .fallbackDefault) :
    profileIdOf p b = some (if b.toNat < 3 then b else 0#8) := by
  unfold profileIdOf
  split
  · rfl
  · next other => rw [h.resolve_left other]

theorem profileIdOf_none {p : Params} {b : BitVec 8} (unknown : 3 ≤ b.toNat) (policy : p.unknownProfile = .error) :
    profileIdOf p b = none := by
  rw [profileIdOf, if_neg (by omega), policy]

/-- RESOLVE's body at a byte policy `error` does not know (R211). -/
theorem resolveProfile_unknown {s : State} {b : BitVec 8} (unknown : 3 ≤ b.toNat) (policy : s.params.unknownProfile = .error) :
    resolveProfile b s = .err .unknownProfile := by
  rw [resolveProfile, profileIdOf_none unknown policy]

section
variable {s : State} {b id : BitVec 8} (known : profileIdOf s.params b = some id)
include known

/-- RESOLVE's body the first time (R210). -/
theorem resolveProfile_fresh (fresh : s.ctx.resolved = false) :
    resolveProfile b s = .ok (s.setCtx { s.ctx with profile := profileBundle s.params id, resolved := true }) := by
  simp only [resolveProfile, known, fresh, Bool.false_eq_true, if_false]

/-- RESOLVE's body again, with the same bundle (R213). -/
theorem resolveProfile_same (resolved : s.ctx.resolved = true) (same : profileBundle s.params id = s.ctx.profile) :
    resolveProfile b s = .ok s := by
  simp only [resolveProfile, known, resolved, same, if_true]

/-- RESOLVE's body again, with another bundle (R213). -/
theorem resolveProfile_other (resolved : s.ctx.resolved = true) (other : profileBundle s.params id ≠ s.ctx.profile) :
    resolveProfile b s = .fault (.illegalState (ctrlSite s) .resolve) := by
  simp only [resolveProfile, known, resolved, other, if_true, if_false]

end

section
variable {s : State} {b : BitVec 8} (start : AtStart s)
include start

theorem exec_resolve_err {c : Code} (body : resolveProfile b s = .err c) : exec (.resolve b) s = .next (endCommand 0 c s) :=
  runCommand_begin (t := s) (todo := [.ret c]) start (by rw [beginResolve, body])

theorem exec_resolve_ok {t : State} (body : resolveProfile b s = .ok t) : exec (.resolve b) s = .next (endCommand 0 .ok t) :=
  runCommand_begin (t := t) (todo := [.ret .ok]) start (by rw [beginResolve, body])

theorem exec_resolve_fault {f : Fault} (body : resolveProfile b s = .fault f) : exec (.resolve b) s = .fault f :=
  runCommand_fault start (by rw [beginResolve, body])

end

/-- Settles O19: the byte's id, and then what the body answers of it. -/
theorem resolve : Obligations.Resolve := by
  intro s b start
  refine ⟨fun ⟨unknown, policy⟩ => exec_resolve_err start (resolveProfile_unknown unknown policy), fun known => ?_⟩
  have id_of := profileIdOf_eq known
  refine ⟨fun fresh => exec_resolve_ok start (resolveProfile_fresh id_of fresh),
    fun ⟨resolved, same⟩ => exec_resolve_ok start (resolveProfile_same id_of resolved same), fun ⟨resolved, other⟩ => ?_⟩
  rw [← ctrlSite_start start]
  exact exec_resolve_fault start (resolveProfile_other id_of resolved other)

/-- Settles O20: the table's bundles, with the bounds a launch that is not refused keeps to. -/
theorem profileTable : Obligations.ProfileTable := by
  intro p launched fits
  obtain ⟨default, ⟨from_one, shifted⟩, bcp⟩ := positions_of_launch launched
  refine ⟨fun c1 c2 pos => ?_, fun c1 c2 pos => ?_, fun c1 c2 pos => ?_⟩
  · rw [pos] at default
    exact ⟨by simp [profileBundle, slaveBundle, pos], default⟩
  · rw [pos] at from_one shifted
    exact ⟨by simp [profileBundle, slaveBundle, pos], from_one, shifted⟩
  · rw [pos] at bcp
    have rate : (profileBundle p 2#8).bclkRate = BitVec.ofNat 32 (64 * p.sampleRate) := if_pos fits
    refine ⟨?_, by simp [profileBundle, pos], bcp⟩
    rw [rate, BitVec.toNat_ofNat, Nat.mod_eq_of_lt fits]

/-! ## CLEAR_REGISTERS (R214) -/

/-- CLEAR_REGISTERS' items (R214). -/
theorem nextItems_clearRegisters {s : State} (start : AtStart s) :
    NextItems .clearRegisters [.writeReg .modeA 0#32, .writeReg .rxcA 0#32, .writeReg .txcA 0#32, .writeReg .dreqA 0#32,
      .writeReg .intenA 0#32, .setConfigured false, .ret .ok] s :=
  nextItems_start rfl start rfl

/-- Settles O21: five writes of 0, each a micro-operation; the last one ends the command. -/
theorem clearRegisters : Obligations.ClearRegisters := by
  intro s start reliable
  have here := nextItems_clearRegisters start
  rw [← s.begun_eq] at here
  obtain ⟨mode, here⟩ := (NextItems.writeReg here reliable (regStores_modeA ⟨BitVec.zero_and, BitVec.zero_and⟩)).waits rfl rfl
  obtain ⟨rxc, here⟩ := (here.writeReg reliable (regStores_rxcA BitVec.zero_and)).waits rfl rfl
  obtain ⟨txc, here⟩ := (here.writeReg reliable (regStores_txcA BitVec.zero_and)).waits rfl rfl
  obtain ⟨dreq, here⟩ := (here.writeReg reliable (regStores_dreqA BitVec.zero_and)).waits rfl rfl
  have inten := here.writeReg reliable (regStores_intenA BitVec.zero_and)
  exact ⟨_, _, _, _, mode, rfl, rxc, rfl, txc, rfl, dreq, rfl, inten⟩

/-! ## CONFIGURE (R215 to R221) -/

/-- CONFIGURE's register items on the default layout, `rest` to do after them (R215). -/
def registerItems (mode format thresholds dreq : Word) (rest : List Micro) : List Micro :=
  .writeReg .modeA mode :: .writeReg .rxcA format :: .writeReg .txcA format :: .updRead .modeA 0x10000000#32 0#32 ::
    .updRead .csA 0x3E0#32 thresholds :: .writeReg .dreqA dreq :: rest

/-- CONFIGURE's eight register accesses, no other agent stepping in between, with `rest` to do after them (R215, R217 to R221). -/
theorem NextItems.registers {i : Instr} {s : State} {rest : List Micro} {mode format thresholds dreq : Word}
    (here : NextItems i (registerItems mode format thresholds dreq rest) s) (ctrl : cmdAgent i = .ctrl)
    (layout : DefaultLayout s) (reliable : BusReliable s) (runs : ModeRuns mode)
    (stored : dreq &&& dreqKnown s.params.regmap.dreq = dreq) :
    ∃ s1 cs pipe inputs m todo, exec i s = .next s1 ∧
      CsLeft (s.params.updateAlwaysWrites = false ∧ csSame 0x3E0#32 thresholds s) (csPicked 0x3E0#32 thresholds s)
        s.pr.cs cs s.pipe pipe ∧
      execFor i 7 s1 = goOn (operandWords i) rest
        (s.underway { s.pr with cs := cs, mode := mode, rxc := format, txc := format, dreq := dreq } pipe inputs m todo) := by
  rw [← s.begun_eq] at here
  obtain ⟨mode_step, here⟩ := (NextItems.writeReg here reliable (regStores_modeA (modeRuns_stored layout runs))).waits ctrl rfl
  obtain ⟨rxc_step, here⟩ := (here.writeReg reliable (regStores_rxcA (format_stored layout _))).waits ctrl rfl
  obtain ⟨txc_step, here⟩ := (here.writeReg reliable (regStores_txcA (format_stored layout _))).waits ctrl rfl
  obtain ⟨read_step, here⟩ := (here.updRead reliable rfl).waits ctrl rfl
  obtain ⟨write_step, here⟩ := (here.updWrite reliable (regStores_modeA (modeRuns_clkDis layout runs _)) fun _ => rfl).waits ctrl rfl
  obtain ⟨cs, pipe, todo, left, cs_read, goes⟩ := here.csUpdate ctrl layout reliable storedMask_thresholds
  obtain ⟨cs_write, here⟩ := goes.waits ctrl rfl
  have dreq_step := here.writeReg reliable (regStores_dreqA stored)
  have run := execFor_step rxc_step <| execFor_step txc_step <| execFor_step read_step <| execFor_step write_step <|
    execFor_step cs_read <| execFor_step cs_write <| (execFor_one i _).trans dreq_step
  exact ⟨_, cs, pipe, _, _, _, mode_step, left, run⟩

/-- What CONFIGURE's CS_A update leaves of CS_A and the pipelines: the launch's thresholds and DMAEN, if they were not there (R220). -/
def ThresholdsLeft (s : State) (cs : CsA) (pipe : Pipe) : Prop :=
  CsLeft (s.params.updateAlwaysWrites = false ∧ s.pr.cs.txthr = BitVec.ofNat 2 s.params.txThr ∧
      s.pr.cs.rxthr = BitVec.ofNat 2 s.params.rxThr ∧ s.pr.cs.dmaen = true)
    { s.pr.cs with
      txthr := BitVec.ofNat 2 s.params.txThr
      rxthr := BitVec.ofNat 2 s.params.rxThr
      dmaen := true
      txerr := false
      rxerr := false }
    s.pr.cs cs s.pipe pipe

theorem CsLeft.thresholds {s : State} {cs : CsA} {pipe : Pipe} (rx : s.params.rxThr ≤ 3) (tx : s.params.txThr ≤ 3)
    (left : CsLeft (s.params.updateAlwaysWrites = false ∧ csSame 0x3E0#32 (thresholdVal bcmCs s.params) s)
      (csPicked 0x3E0#32 (thresholdVal bcmCs s.params) s) s.pr.cs cs s.pipe pipe) : ThresholdsLeft s cs pipe := by
  obtain ⟨txthr, rxthr, dmaen⟩ := thresholdVal_fields rx tx
  rwa [csSame_thresholds dmaen, csPicked_thresholds dmaen, txthr, rxthr] at left

/-- CONFIGURE's register items for a bundle of the table, and its end (R215). -/
def bundleItems (p : Params) (provider : Bool) (pos : Nat × Nat) : List Micro :=
  registerItems (modeWord provider) (formatWord pos) (thresholdVal bcmCs p) (dreqVal bcmDreq p) [.setConfigured true, .ret .ok]

/-- CONFIGURE from its first register access to its end, no other agent stepping in between (R215, R217 to R221, R373). -/
theorem configure_completes {s : State} {provider : Bool} {pos : Nat × Nat}
    (here : NextItems .configure (bundleItems s.params provider pos) s) (layout : DefaultLayout s) (reliable : BusReliable s)
    (launched : launchRefusal s.params = none) (permitted : Permitted pos) :
    ∃ s1 t inputs, exec .configure s = .next s1 ∧ execFor .configure 7 s1 = .next t ∧ ThresholdsLeft s t.pr.cs t.pipe ∧
      (∀ cs, LayoutBits { t.pr with cs := cs }) ∧
      t = { s with
        ctx := { s.ctx with configured := true, result := .ok }
        pr := { s.pr with
          cs := t.pr.cs
          mode := modeWord provider
          rxc := formatWord pos
          txc := formatWord pos
          dreq := BitVec.ofNat 32
            (s.params.panicTx * 2 ^ 24 + s.params.panicRx * 2 ^ 16 + s.params.dreqTx * 2 ^ 8 + s.params.dreqRx) }
        pipe := t.pipe
        ctrl := ctrlPast s.ctrl 0
        inputs := inputs } := by
  obtain ⟨dreqRx, dreqTx, panicRx, panicTx, rxThr, txThr⟩ := levels_of_launch launched
  obtain ⟨runs, frame⟩ := modeWord_runs provider
  obtain ⟨s1, cs, pipe, inputs, m, todo, first, left, run⟩ :=
    NextItems.registers here rfl layout reliable runs (dreqVal_stored layout)
  rw [dreqVal_eq dreqRx dreqTx panicRx panicTx] at run
  have format := formatBits_formatWord permitted
  exact ⟨s1, _, inputs, first, run, left.thresholds rxThr txThr, fun cs => ⟨frame, fun _ => format, fun _ => format⟩, rfl⟩

/-- CONFIGURE's clock items, `rest` to do after them: only the clocks' provider has any (R216). -/
def clockItems (provider : Bool) (rest : List Micro) : List Micro :=
  match provider with
  | true => .clkSetRate :: .clkEnable :: rest
  | false => rest

/-- CONFIGURE's sequence on the default layout (R215 to R221). -/
theorem configureSeq_default {s : State} {provider : Bool} {pos : Nat × Nat} (layout : DefaultLayout s)
    (bundle : Bundles s.ctx.profile provider pos) (permitted : Permitted pos) :
    configureSeq s ++ [.ret .ok] = .guardResolved :: clockItems provider (bundleItems s.params provider pos) := by
  have masks : fieldMask bcmMode.clkDis = 0x10000000#32 ∧ thresholdMask bcmCs = 0x3E0#32 := by decide
  rw [bundleItems, ← modeVal_eq bundle, ← formatVal_eq bundle permitted]
  obtain ⟨-, -, clock, -, -, -⟩ := bundle
  simp only [configureSeq, show s.params.regmap = bcm2835 from layout, bcm2835, masks, clockSeq, clock]
  cases provider <;> rfl

/-- CONFIGURE begins at its clock items, its guard passed (R215). -/
theorem nextItems_configure {s : State} {provider : Bool} {pos : Nat × Nat} (start : AtStart s) (layout : DefaultLayout s)
    (resolved : s.ctx.resolved = true) (bundle : Bundles s.ctx.profile provider pos) (permitted : Permitted pos) :
    NextItems .configure (clockItems provider (bundleItems s.params provider pos)) s := by
  have begins : commandBegin .configure s = .run s (configureSeq s ++ [.ret .ok]) := rfl
  rw [configureSeq_default layout bundle permitted] at begins
  exact (nextItems_start rfl start begins).pass (quiet_guardResolved resolved)

/-- Settles O22: a slave profile has no clock items, and its register items complete. -/
theorem configureSlave : Obligations.ConfigureSlave := by
  intro s id start layout reliable launched resolved slave bundled pos
  have bundle : Bundles s.ctx.profile false pos := bundled ▸ bundles_slave s.params slave
  obtain ⟨default, ⟨-, shifted⟩, -⟩ := positions_of_launch launched
  have permitted : Permitted pos := by
    by_cases zero : id = 0#8
    · simpa only [pos, if_pos zero] using default
    · simpa only [pos, if_neg zero] using shifted
  have here := nextItems_configure start layout resolved bundle permitted
  obtain ⟨s1, t, inputs, first, run, left, layouts, final⟩ := configure_completes here layout reliable launched permitted
  exact ⟨s1, t, inputs, first, run, left.1, left.2, layouts, final⟩

/-- The clock asked for its rate: the call and its answer recorded, `rest` left to do behind the note of the answer (R216). -/
def rateAsked (ok : Bool) (rest : List Micro) (s : State) : State :=
  { s with
    traces := { s.traces with events := s.traces.events ++ [.clkSetRate s.ctx.profile.bclkRate ok] }
    inputs := (answerOf s.inputs).2
    ctrl := ctrlOn s.ctrl (.noteRate ok :: rest) }

/-- Both clock calls made, the rate answered `ok` and noted, the enable answered `on`, `rest` left to do (R216). -/
def clockSet (ok on : Bool) (rest : List Micro) (s : State) : State :=
  { s with
    ctx := { s.ctx with clkRate := s.ctx.profile.bclkRate, clkRateErr := s.ctx.clkRateErr || !ok }
    clkEnabled := on
    traces := { s.traces with events := s.traces.events ++ [.clkSetRate s.ctx.profile.bclkRate ok, .clkEnable on] }
    inputs := (answerOf (answerOf s.inputs).2).2
    ctrl := { s.ctrl with m := s.ctrl.m + 1 + 1, todo := rest } }

/-- The two clock calls, each one micro-operation; what the first was answered is recorded with the second (R12, R216). -/
theorem NextItems.clock {i : Instr} {s : State} {next : Micro} {rest : List Micro} {a b : Bool} {as : List Bool}
    (here : NextItems i (.clkSetRate :: .clkEnable :: next :: rest) s) (ctrl : cmdAgent i = .ctrl) (acc : isAccess next = true)
    (answers : s.inputs.answers = a :: b :: as) :
    exec i s = .next (rateAsked a (.clkEnable :: next :: rest) s) ∧
      exec i (rateAsked a (.clkEnable :: next :: rest) s) = .next (clockSet a b (next :: rest) s) ∧
      NextItems i (next :: rest) (clockSet a b (next :: rest) s) := by
  have first : (answerOf s.inputs).1 = a := by rw [answerOf, answers]
  have second : (answerOf (answerOf s.inputs).2).1 = b := by simp only [answerOf, answers]
  have asks : access .clkSetRate s = .done (logEvent (.clkSetRate s.ctx.profile.bclkRate a) (afterAnswer s)) [.noteRate a] := by
    rw [← first]; rfl
  have noted : NextItems i (.noteRate a :: .clkEnable :: next :: rest) (rateAsked a (.clkEnable :: next :: rest) s) :=
    exec_goesOn ctrl (Nat.succ_ne_zero _)
  have ready : runQuiet (operandWords i) (.noteRate a :: .clkEnable :: next :: rest) (rateAsked a (.clkEnable :: next :: rest) s) =
      .access (rateNoted a (rateAsked a (.clkEnable :: next :: rest) s)) .clkEnable (next :: rest) := rfl
  have enables : access .clkEnable (rateNoted a (rateAsked a (.clkEnable :: next :: rest) s)) =
      .done { clockSet a b (next :: rest) s with ctrl := ctrlOn s.ctrl (.noteRate a :: .clkEnable :: next :: rest) } [] := by
    rw [clockSet, ← second, List.append_cons s.traces.events]; rfl
  exact ⟨here.done (runQuiet_access rfl _ _ _) asks, Eq.trans (noted.done ready enables) (goOn_access acc _ _ _),
    exec_goesOn ctrl (Nat.succ_ne_zero _)⟩

/-- Settles O23: the two clock calls, then the register items complete from the state they leave. -/
theorem configureMaster : Obligations.ConfigureMaster := by
  intro s a b as start layout reliable launched resolved bundled answers
  have bundle : Bundles s.ctx.profile true s.params.posBcp := bundled ▸ bundles_bcp s.params
  obtain ⟨-, -, permitted⟩ := positions_of_launch launched
  have here := nextItems_configure start layout resolved bundle permitted
  obtain ⟨asks, enables, here⟩ := NextItems.clock here rfl rfl answers
  obtain ⟨s3, t, inputs, first, run, left, layouts, final⟩ := configure_completes here layout reliable launched permitted
  exact ⟨_, _, t, inputs, asks, ⟨rfl, rfl, rfl, rfl⟩, enables, ⟨rfl, rfl, rfl, rfl, rfl, List.append_cons ..⟩,
    execFor_step first run, left.1, left.2, layouts, final⟩

/-! ## ENABLE (R223) -/

section
variable {known inten : Word} (reserved : inten &&& ~~~known = 0#32) (d : Word)
include reserved

/-- INTEN_A's error interrupts set in the word read: what is stored gains them, whatever the draw (R59, R223). -/
theorem errorInts_stored (errors : 0xC#32 &&& known = 0xC#32) :
    updated (plainValue known inten d) 0xC#32 0xC#32 &&& known = inten ||| 0xC#32 := by
  rw [updated_set, BitVec.and_or_distrib_right, plainValue_known, and_eq_self_of_reserved reserved, errors]

/-- Where the word read has them set already, they are stored. -/
theorem errorInts_idle (errors : 0xC#32 &&& known = 0xC#32)
    (idle : updated (plainValue known inten d) 0xC#32 0xC#32 = plainValue known inten d) : inten ||| 0xC#32 = inten := by
  rw [← errorInts_stored reserved d errors, idle, plainValue_known, and_eq_self_of_reserved reserved]

end

/-- ENABLE's items on the default layout, its guard passed, `rest` to do after them (R223). -/
def enableItems (rest : List Micro) : List Micro :=
  .updRead .csA 0x2000000#32 0x2000000#32 :: .updRead .intenA 0xC#32 0xC#32 :: .updRead .csA 0x1#32 0x1#32 :: rest

theorem enableSeq_default (rest : List Micro) : enableSeq bcm2835 ++ rest = .guardConfigured :: enableItems rest := by
  have masks : fieldMask bcmCs.stby = 0x2000000#32 ∧ errorInts bcmInt = 0xC#32 ∧ fieldMask bcmCs.en = 0x1#32 := by decide
  simp only [enableSeq, bcm2835, masks]
  rfl

/-! ENABLE's two updates of CS_A, where they change nothing and what they write. -/

theorem csPicked_stby (s : State) :
    csPicked 0x2000000#32 0x2000000#32 s = { s.pr.cs with stby := true, txerr := false, rxerr := false } := by
  simp [csPicked, pick, pick2, and_three]

theorem csSame_stby (s : State) : csSame 0x2000000#32 0x2000000#32 s ↔ s.pr.cs.stby = true := by simp [csSame]

theorem csPicked_en (s : State) : csPicked 0x1#32 0x1#32 s = { s.pr.cs with en := true, txerr := false, rxerr := false } := by
  simp [csPicked, pick, pick2, and_three]

theorem csSame_en (s : State) : csSame 0x1#32 0x1#32 s ↔ s.pr.cs.en = true := by simp [csSame]

/-- SYNC carried back twice is SYNC carried back once (R75, R182). -/
theorem echoBack_echoBack (p : Pipe) : echoBack (echoBack p) = echoBack p := by
  simp [echoBack]

/-- ENABLE's first update leaves STBY set, and of the other fields of CS_A it can change the error flags only (R223, R463). -/
theorem CsLeft.stby {unforced : Prop} {cs cs1 : CsA} {p p1 : Pipe}
    (left : CsLeft (unforced ∧ cs.stby = true) { cs with stby := true, txerr := false, rxerr := false } cs cs1 p p1) :
    cs1 = { cs with stby := true, txerr := cs1.txerr, rxerr := cs1.rxerr } := by
  by_cases idle : unforced ∧ cs.stby = true
  · rw [(left.1 idle).1, ← idle.2]
  · rw [(left.2 idle).1]

/-- ENABLE's two updates of CS_A together: nothing changed where both bits were set and no write is forced, else both set, the error
flags cleared and SYNC carried back (R182, R223, R463). -/
theorem CsLeft.enable {unforced : Prop} {cs cs1 cs2 : CsA} {p p1 p2 : Pipe}
    (stby : CsLeft (unforced ∧ cs.stby = true) { cs with stby := true, txerr := false, rxerr := false } cs cs1 p p1)
    (en : CsLeft (unforced ∧ cs1.en = true) { cs1 with en := true, txerr := false, rxerr := false } cs1 cs2 p1 p2) :
    CsLeft (unforced ∧ cs.stby = true ∧ cs.en = true) { cs with stby := true, en := true, txerr := false, rxerr := false }
      cs cs2 p p2 := by
  by_cases idle1 : unforced ∧ cs.stby = true
  · obtain ⟨rfl, rfl⟩ := stby.1 idle1
    refine ⟨fun ⟨quiet, _, set⟩ => en.1 ⟨quiet, set⟩, fun writes => ?_⟩
    obtain ⟨written, echo⟩ := en.2 fun ⟨quiet, set⟩ => writes ⟨quiet, idle1.2, set⟩
    rw [written, echo, idle1.2]
    exact ⟨rfl, rfl⟩
  · obtain ⟨rfl, rfl⟩ := stby.2 idle1
    refine ⟨fun ⟨quiet, set, _⟩ => absurd ⟨quiet, set⟩ idle1, fun _ => ?_⟩
    by_cases idle2 : unforced ∧ cs.en = true
    · obtain ⟨kept, echo⟩ := en.1 idle2
      rw [kept, echo, idle2.2]
      exact ⟨rfl, rfl⟩
    · obtain ⟨written, echo⟩ := en.2 idle2
      rw [written, echo, echoBack_echoBack]
      exact ⟨rfl, rfl⟩

/-- ENABLE begins at its first update, its guard passed (R223). -/
theorem nextItems_enable {s : State} (start : AtStart s) (layout : DefaultLayout s) (configured : s.ctx.configured = true) :
    NextItems .enable (enableItems [.ret .ok]) s := by
  have begins : commandBegin .enable s = .run s (enableSeq s.params.regmap ++ [.ret .ok]) := rfl
  rw [show s.params.regmap = bcm2835 from layout, enableSeq_default] at begins
  exact (nextItems_start rfl start begins).pass (quiet_guardConfigured configured)

/-- Settles O24: STBY, the error interrupts and EN, each an `UpdateBits` of two micro-operations, and the two of CS_A taken together. -/
theorem enable : Obligations.Enable := by
  intro s start layout reliable reserved configured same
  obtain ⟨-, -, -, -, -, inten_reserved, -⟩ := reserved
  have errors : 0xC#32 &&& intKnown s.params.regmap.int = 0xC#32 := by rw [intKnown_default layout]; rfl
  have here := nextItems_enable start layout configured
  rw [← s.begun_eq] at here
  obtain ⟨cs1, pipe1, todo1, left1, read1, goes⟩ := NextItems.csUpdate here rfl layout reliable storedMask_stby
  obtain ⟨write1, here⟩ := goes.waits rfl rfl
  obtain ⟨read2, here⟩ := (here.updRead reliable rfl).waits rfl rfl
  obtain ⟨write2, here⟩ := (here.updWrite reliable (regStores_intenA (errorInts_stored inten_reserved _ errors))
    fun idle => by rw [errorInts_idle inten_reserved _ errors idle]).waits rfl rfl
  obtain ⟨cs2, pipe2, todo2, left2, read3, goes⟩ := here.csUpdate rfl layout reliable storedMask_en
  rw [csSame_stby, csPicked_stby] at left1
  rw [csSame_en, csPicked_en] at left2
  have first := CsLeft.stby left1
  have stby_set := congrArg CsA.stby first
  have en_kept := congrArg CsA.en first
  have both := CsLeft.enable left1 left2
  exact ⟨_, _, _, _, _, _, _, ⟨read1, rfl⟩, ⟨write1, stby_set, en_kept,
    congrArg (fun cs => ({ s.pr with cs := cs } : Peripheral)) first⟩, ⟨read2, rfl⟩, ⟨write2, rfl⟩,
    ⟨read3, rfl⟩, goes, both.1, both.2, rfl⟩

/-! ## Guards (R215, R223, R291, R294, R338, R415) -/

/-- Settles O25: four guards stand in front of the sequence, four at the command's beginning. -/
theorem guards : Obligations.Guards := by
  intro s start
  refine ⟨fun unresolved => ?_, fun unconfigured => ?_, fun d bad => ?_, fun bad => ?_, fun p bad => ?_, fun pf cc bad => ?_,
    fun bad => ?_, fun stopped => ?_⟩
  · exact exec_guard_fault rfl start rfl rfl unresolved
  · exact exec_guard_fault rfl start rfl rfl unconfigured
  · exact exec_guard_fault rfl start rfl rfl (by simpa [imp_iff_not_or] using bad)
  · exact exec_guard_fault rfl start rfl rfl (by simpa [bothPrepared, imp_iff_not_or] using bad)
  · exact exec_badState rfl start (if_neg fun ⟨state, fresh⟩ => bad.elim (· state) (by simp [fresh]))
  · exact exec_badState rfl start (if_neg fun ⟨state, done⟩ => bad.elim (· state) (by simp [done]))
  · exact exec_badState rfl start (if_neg bad)
  · exact exec_badState rfl start (if_pos stopped)

end Sys2Proof.Machine
end

section
/-! SUPPORT. A command's run with its micro-step count and its waiting items out of sight: what it comes to, register-only items done, and
what an access leaves it to do (R12, R47). -/

namespace Sys2Proof.Machine

/-! ## Where a run of a command is -/

/-- `v` with its command at micro-step `m`, `waiting` stored as what is left of it (R47). -/
def State.paused (v : State) (m : Nat) (waiting : List Micro) : State := v.setCtrl { v.ctrl with m := m, todo := waiting }

/-- After `n` micro-operations of the command from `s`, no other agent stepping in between, `todo` is next, the register-only items
before it done: they leave `v`, but for the micro-step count and the items that wait. -/
def Reached (i : Instr) (s : State) (n : Nat) (todo : List Micro) (v : State) : Prop :=
  ∃ u items m waiting, execFor i n s = .next u ∧ NextItems i items u ∧
    runQuiet (operandWords i) items u = runQuiet (operandWords i) todo (v.paused m waiting)

/-- The `n`-th micro-operation of the command from `s` leaves `v` and `todo`: the command waits or ends (R12, R47). -/
def Done (i : Instr) (s : State) (n : Nat) (todo : List Micro) (v : State) : Prop :=
  ∃ m waiting, execFor i n s = goOn (operandWords i) todo (v.paused m waiting)

/-- An access comes before any return. -/
def hasAccess : List Micro → Bool
  | [] => false
  | .ret _ :: _ => false
  | .retFirst :: _ => false
  | mi :: rest => isAccess mi || hasAccess rest

/-- With an access to come, the command does not end (R12). -/
theorem runQuiet_not_ended {todo : List Micro} (acc : hasAccess todo = true) (n : Nat) (s t : State) :
    runQuiet n todo s ≠ .ended t := by
  induction todo generalizing s with
  | nil => cases acc
  | cons mi rest ih =>
    by_cases here : isAccess mi = true
    · rw [runQuiet_access here]
      exact Ready.noConfusion
    · cases mi
      case ret => cases acc
      case retFirst => cases acc
      all_goals
        have later : hasAccess rest = true := by simpa [hasAccess, here] using acc
        rw [runQuiet]
        · split
          · exact ih later _
          · exact Ready.noConfusion
          · exact Ready.noConfusion
        all_goals (intros; contradiction)

/-- A run of one micro-operation and more: its first one, then the others. -/
theorem execFor_first {i : Instr} {n : Nat} {s t : State} (run : execFor i (n + 1) s = .next t) :
    ∃ s1, exec i s = .next s1 ∧ execFor i n s1 = .next t := by
  cases first : exec i s with
  | next s1 => exact ⟨s1, rfl, by rwa [execFor_succ first] at run⟩
  | fault f => simp only [execFor, first] at run; cases run
  | refused r => simp only [execFor, first] at run; cases run

theorem execFor_last {i : Instr} {n : Nat} {s u : State} (run : execFor i n s = .next u) : execFor i (n + 1) s = exec i u :=
  (execFor_add run 1).trans (execFor_one i u)

section
variable {i : Instr} {s v : State} {n : Nat} {todo : List Micro}

/-- At a command's start (R47). -/
theorem Reached.start (ctrl : cmdAgent i = .ctrl) (start : AtStart s) (begins : commandBegin i s = .run s todo) :
    Reached i s 0 todo s :=
  ⟨s, todo, s.ctrl.m, s.ctrl.todo, rfl, nextItems_start ctrl start begins, rfl⟩

/-- At the items a command waits with, whatever other agents did before (R47). -/
theorem Reached.resumed (ctrl : cmdAgent i = .ctrl) (v : State) (m : Nat) (todo : List Micro) :
    Reached i (v.paused (m + 1) todo) 0 todo v :=
  ⟨_, todo, m + 1, todo, rfl, exec_goesOn ctrl (Nat.succ_ne_zero m), rfl⟩

/-- Only register-only items are left, and nothing before them: the command ends (R12, R47). -/
theorem Reached.ends {t : State} (here : Reached i s n todo v)
    (ended : ∀ m waiting, runQuiet (operandWords i) todo (v.paused m waiting) = .ended t) : execFor i (n + 1) s = .next t := by
  obtain ⟨u, items, m, waiting, run, next, ready⟩ := here
  refine (execFor_last run).trans (Eq.trans next ?_)
  simp only [microStep, ready.trans (ended m waiting)]

/-- A register-only item is merged with the access behind it (R12). -/
theorem Reached.quiet {mi : Micro} {t : State} (here : Reached i s n (mi :: todo) v)
    (acts : ∀ m waiting, quiet mi (v.paused m waiting) = .act (t.paused m waiting)) : Reached i s n todo t := by
  obtain ⟨u, items, m, waiting, run, next, ready⟩ := here
  exact ⟨u, items, m, waiting, run, next, ready.trans (runQuiet_act (acts m waiting) _ _)⟩

section
variable {mi : Micro} {rest : List Micro} (here : Reached i s n (mi :: rest) v) (acc : isAccess mi = true)
include here acc

/-- The access a run comes to is done: the items it asks for come before the rest. -/
theorem Reached.done {t : State} {more : List Micro}
    (answers : ∀ m waiting, access mi (v.paused m waiting) = .done (t.paused m waiting) more) : Done i s (n + 1) (more ++ rest) t := by
  obtain ⟨u, items, m, waiting, run, next, ready⟩ := here
  refine ⟨m, waiting, (execFor_last run).trans (Eq.trans next ?_)⟩
  rw [microStep_eq (ready.trans (runQuiet_access acc _ _ _)), answers]

/-- The access a run comes to replaces the rest of the sequence. -/
theorem Reached.replaced {t : State} {others : List Micro}
    (answers : ∀ m waiting, access mi (v.paused m waiting) = .replace (t.paused m waiting) others) : Done i s (n + 1) others t := by
  obtain ⟨u, items, m, waiting, run, next, ready⟩ := here
  refine ⟨m, waiting, (execFor_last run).trans (Eq.trans next ?_)⟩
  rw [microStep_eq (ready.trans (runQuiet_access acc _ _ _)), answers]

/-- The access a run comes to faults; what its register-only items did aside, the state is `v` (R415). -/
theorem Reached.faults {f : Site → Fault}
    (answers : ∀ m waiting, access mi (v.paused m waiting) = .fault (f (ctrlSite (v.paused m waiting)))) :
    ∃ u, execFor i n s = .next u ∧ u.fifo = v.fifo ∧ exec i u = .fault (f (ctrlSite u)) := by
  obtain ⟨u, items, m, waiting, run, next, ready⟩ := here
  have comes := ready.trans (runQuiet_access acc _ _ _)
  have frame := runQuiet_frame comes
  have fifo : (v.paused m waiting).fifo = u.fifo := by rw [frame]
  have site : ctrlSite (v.paused m waiting) = ctrlSite u := by rw [frame]; rfl
  refine ⟨u, run, fifo.symm, Eq.trans next ?_⟩
  rw [microStep_eq comes, answers, site]

end

/-- An access is to come: the command waits with `todo`. -/
theorem Done.waits (left : Done i s n todo v) (acc : hasAccess todo = true) : ∃ m, execFor i n s = .next (v.paused (m + 1) todo) := by
  obtain ⟨m, waiting, run⟩ := left
  exact ⟨m, run.trans (goOn_wait (runQuiet_not_ended acc _ _))⟩

theorem Done.goes (left : Done i s n todo v) (ctrl : cmdAgent i = .ctrl) (acc : hasAccess todo = true) : Reached i s n todo v := by
  obtain ⟨m, run⟩ := left.waits acc
  exact ⟨_, todo, m + 1, todo, run, exec_goesOn ctrl (Nat.succ_ne_zero m), rfl⟩

/-- Only register-only items are left: the command ends (R12, R47). -/
theorem Done.ends {t : State} (left : Done i s n todo v)
    (ended : ∀ m waiting, runQuiet (operandWords i) todo (v.paused m waiting) = .ended t) : execFor i n s = .next t := by
  obtain ⟨m, waiting, run⟩ := left
  exact run.trans (goOn_ended (ended m waiting))

end

end Sys2Proof.Machine
end

section
/-! SUPPORT. PRIME_TX_FIFO (R253, R415): O28. -/

namespace Sys2Proof.Machine

/-! ## The zero pushes (R188, R253) -/

/-- `k` zeros pushed into the TX FIFO (R253). -/
def State.pushed (v : State) (k : Nat) : State := { v with fifo := { v.fifo with tx := v.fifo.tx ++ List.replicate k 0#32 } }

theorem State.pushed_zero (v : State) : v.pushed 0 = v := by simp [State.pushed]

theorem State.pushed_pushed (v : State) (j k : Nat) : (v.pushed j).pushed k = v.pushed (j + k) := by
  simp [State.pushed, List.append_assoc, List.replicate_append_replicate]

theorem State.pushed_length (v : State) (k : Nat) : (v.pushed k).fifo.tx.length = v.fifo.tx.length + k := by simp [State.pushed]

section
variable {v : State} (reliable : BusReliable v) (on : FifoOpen v) (m : Nat) (waiting : List Micro)
include reliable on

/-- A zero push that fits. -/
theorem regWrite_zero_fits (room : v.fifo.tx.length < v.params.fifoDepth) :
    regWrite .fifoA 0#32 (v.paused m waiting) = .ok () ((v.pushed 1).paused m waiting) := by
  rw [regWrite_reliable (s := v.paused m waiting) reliable, writeOnBus_fifoA_room (s := v.paused m waiting) on room]
  rfl

/-- A zero push that does not. -/
theorem regWrite_zero_full (full : v.params.fifoDepth ≤ v.fifo.tx.length) :
    regWrite .fifoA 0#32 (v.paused m waiting) = .fault (.txOverflow (ctrlSite (v.paused m waiting)) 0#32) := by
  rw [regWrite_reliable (s := v.paused m waiting) reliable, writeOnBus_fifoA_full (s := v.paused m waiting) on full]

end

section
variable {i : Instr} {s v : State} {n k : Nat} {rest : List Micro}

/-- One push of PRIME_TX_FIFO. -/
theorem Reached.prime (here : Reached i s n (.prime (k + 1) :: rest) v) (reliable : BusReliable v) (on : FifoOpen v)
    (room : v.fifo.tx.length < v.params.fifoDepth) : Done i s (n + 1) (.prime k :: rest) (v.pushed 1) :=
  here.done (t := v.pushed 1) (more := [.prime k]) rfl fun m waiting => by
    simp only [access, actWrite, regWrite_zero_fits reliable on m waiting room]

/-- `k` pushes, with `j + 1` more to come. -/
theorem Reached.primes {j : Nat} (here : Reached i s n (.prime (j + 1 + k) :: rest) v) (ctrl : cmdAgent i = .ctrl)
    (reliable : BusReliable v) (on : FifoOpen v) (room : v.fifo.tx.length + k ≤ v.params.fifoDepth) :
    Reached i s (n + k) (.prime (j + 1) :: rest) (v.pushed k) := by
  induction k generalizing n j with
  | zero => rwa [State.pushed_zero]
  | succ k ih =>
    rw [← Nat.add_assoc, Nat.add_right_comm] at here
    have before := ih here (by omega)
    have last := before.prime reliable on (by rw [State.pushed_length]; exact room)
    rw [State.pushed_pushed] at last
    exact last.goes ctrl rfl

/-- PRIME_TX_FIFO at a full FIFO faults (R188). -/
theorem Reached.prime_full (here : Reached i s n (.prime (k + 1) :: rest) v) (reliable : BusReliable v) (on : FifoOpen v)
    (full : v.params.fifoDepth ≤ v.fifo.tx.length) :
    ∃ u, execFor i n s = .next u ∧ u.fifo = v.fifo ∧ exec i u = .fault (.txOverflow (ctrlSite u) 0#32) :=
  here.faults (f := fun site => .txOverflow site 0#32) rfl fun m waiting => by
    simp only [access, actWrite, regWrite_zero_full reliable on m waiting full]

end

section
variable {s : State} {n : BitVec 16} (start : AtStart s) (reliable : BusReliable s) (on : FifoOpen s)
include start

/-- PRIME_TX_FIFO's items (R253). -/
theorem reached_primeTxFifo {k : Nat} (count : n.toNat = k) : Reached (.primeTxFifo n) s 0 [.prime k, .ret .ok] s :=
  count ▸ .start rfl start rfl

include reliable on

/-- PRIME_TX_FIFO's run from its start to its end, where every push fits; a count of 0 ends at once (R253). -/
theorem prime_completes (room : s.fifo.tx.length + n.toNat ≤ s.params.fifoDepth) :
    execFor (.primeTxFifo n) (n.toNat - 1 + 1) s = .next (endCommand 0 .ok (s.pushed n.toNat)) := by
  cases count : n.toNat with
  | zero =>
    rw [State.pushed_zero]
    exact (reached_primeTxFifo start count).ends fun _ _ => rfl
  | succ k =>
    have here := reached_primeTxFifo start count
    rw [Nat.add_comm] at here
    have before := here.primes rfl reliable on (j := 0) (by omega)
    have last := before.prime reliable on (by rw [State.pushed_length]; show _ < s.params.fifoDepth; omega)
    rw [State.pushed_pushed, Nat.zero_add] at last
    exact last.ends fun _ _ => rfl

/-- PRIME_TX_FIFO's run up to the push that finds the FIFO full (R188, R253). -/
theorem prime_overflows (fits : s.fifo.tx.length ≤ s.params.fifoDepth) (past : s.params.fifoDepth < s.fifo.tx.length + n.toNat) :
    ∃ u, execFor (.primeTxFifo n) (s.params.fifoDepth - s.fifo.tx.length) s = .next u ∧
      u.fifo = (s.pushed (s.params.fifoDepth - s.fifo.tx.length)).fifo ∧
      exec (.primeTxFifo n) u = .fault (.txOverflow (ctrlSite u) 0#32) := by
  obtain ⟨j, count⟩ : ∃ j, n.toNat = j + 1 + (s.params.fifoDepth - s.fifo.tx.length) :=
    ⟨s.fifo.tx.length + n.toNat - s.params.fifoDepth - 1, by omega⟩
  have full := (reached_primeTxFifo start count).primes rfl reliable on (by omega)
  rw [Nat.zero_add] at full
  exact full.prime_full reliable on (by rw [State.pushed_length]; show s.params.fifoDepth ≤ _; omega)

end

/-- Settles O28: the pushes one after the other, and the one that finds the FIFO full. -/
theorem primeTxFifo : Obligations.PrimeTxFifo := by
  intro s n start reliable on
  refine ⟨fun room => execFor_first (prime_completes start reliable on room), fun fits past => ?_⟩
  obtain ⟨u, run, fifo, fault⟩ := prime_overflows start reliable on fits past
  exact ⟨u, run, congrArg Fifos.tx fifo, fault⟩

end Sys2Proof.Machine
end

section
/-! SUPPORT. `UpdateBits` of CS_A in a command's run, with any mask of fields a write can set, and the update of the enables
(R182, R250, R254). -/

namespace Sys2Proof.Machine

/-- CS_A, the pipelines and the inputs as accesses of CS_A leave them. -/
def State.withCs (v : State) (cs : CsA) (pipe : Pipe) (inputs : Inputs) : State :=
  { v with pr := { v.pr with cs := cs }, pipe := pipe, inputs := inputs }

/-- What `UpdateBits(CS_A, mask, val)` from `v` leaves of CS_A and the pipelines (R182, R463). -/
def CsUpdates (mask val : Word) (v : State) (cs : CsA) (pipe : Pipe) : Prop :=
  let idle := v.params.updateAlwaysWrites = false ∧ csSame mask val v
  (idle → cs = v.pr.cs ∧ pipe = v.pipe) ∧ (¬idle → cs = csPicked mask val v ∧ pipe = pipePicked mask val v.pipe)

/-- The mask names only bits a write of CS_A can set (R186). -/
def Settable (mask : Word) : Prop := mask &&& ~~~0x030003FF#32 = 0#32

theorem settable_enables (tx rx : Bool) : Settable (enableMask bcmCs tx rx) := by
  unfold Settable; cases tx <;> cases rx <;> decide

theorem settable_clears (tx rx : Bool) : Settable (clearMask bcmCs tx rx) := by
  unfold Settable; cases tx <;> cases rx <;> decide

theorem settable_sync : Settable (fieldMask bcmCs.sync) := by unfold Settable; decide

/-- `UpdateBits` of CS_A, its two micro-operations in a row. -/
theorem Reached.updateCs {i : Instr} {s v : State} {n : Nat} {mask val : Word} {rest : List Micro}
    (here : Reached i s n (.updRead .csA mask val :: rest) v) (ctrl : cmdAgent i = .ctrl) (layout : DefaultLayout v)
    (reliable : BusReliable v) (settable : Settable mask) :
    ∃ cs pipe, CsUpdates mask val v cs pipe ∧ Done i s (n + 2) rest (v.withCs cs pipe (drawOf v.inputs).2) := by
  have read := here.done (t := v.setInputs (drawOf v.inputs).2)
    (more := [.updWrite .csA (csValue v (drawOf v.inputs).1) mask val]) rfl fun m waiting =>
      access_csRead (s := v.paused m waiting) reliable mask val
  have written := read.goes ctrl rfl
  by_cases idle : v.params.updateAlwaysWrites = false ∧ csSame mask val v
  · exact ⟨v.pr.cs, v.pipe, ⟨fun _ => ⟨rfl, rfl⟩, fun other => absurd idle other⟩,
      written.done (t := v.setInputs (drawOf v.inputs).2) rfl fun m waiting =>
        access_csWrite_same (s := v) layout _ settable idle.2 idle.1⟩
  · have changes : ¬csSame mask val v ∨ v.params.updateAlwaysWrites = true := by
      rw [← Bool.not_eq_false, ← not_and_or]
      exact fun ⟨agrees, unforced⟩ => idle ⟨unforced, agrees⟩
    exact ⟨_, _, ⟨fun kept => absurd kept idle, fun _ => ⟨rfl, rfl⟩⟩,
      written.done (t := csUpdate mask val (v.setInputs (drawOf v.inputs).2)) rfl fun m waiting =>
        access_csWrite (s := v) (u := (v.setInputs (drawOf v.inputs).2).paused m waiting) layout reliable rfl rfl rfl _ settable
          changes⟩

/-! ## Both enables set to a mask (R250, R254) -/

theorem csSame_enables (tx rx : Bool) (v : State) :
    csSame (enableMask bcmCs true true) (enableMask bcmCs tx rx) v ↔ v.pr.cs.txon = tx ∧ v.pr.cs.rxon = rx := by
  rw [eq_comm (b := tx), eq_comm (b := rx), and_comm]
  cases tx <;> cases rx <;> simp [csSame, enableMask, bcmCs, fieldMask]

theorem csPicked_enables (tx rx : Bool) (v : State) :
    csPicked (enableMask bcmCs true true) (enableMask bcmCs tx rx) v =
      { v.pr.cs with txon := tx, rxon := rx, txerr := false, rxerr := false } := by
  cases tx <;> cases rx <;> simp [csPicked, pick, pick2, and_three, enableMask, bcmCs, fieldMask]

/-- The enables set as a mask says: nothing changed where they were so already and no write is forced (R182, R254, R463). -/
theorem CsUpdates.enables {tx rx : Bool} {v : State} {cs : CsA} {pipe : Pipe}
    (left : CsUpdates (enableMask bcmCs true true) (enableMask bcmCs tx rx) v cs pipe) :
    CsLeft (v.params.updateAlwaysWrites = false ∧ v.pr.cs.txon = tx ∧ v.pr.cs.rxon = rx)
      { v.pr.cs with txon := tx, rxon := rx, txerr := false, rxerr := false } v.pr.cs cs v.pipe pipe := by
  rwa [CsUpdates, csSame_enables, csPicked_enables, pipePicked_keep rfl rfl rfl] at left

end Sys2Proof.Machine
end

section
/-! SUPPORT. SYNC_FIFOS (R254, R256, R258): its loop on an empty RX FIFO and on waiting words, with them O29 and O30. -/

namespace Sys2Proof.Machine

/-- A count one higher. -/
theorem ofNat_succ (k : Nat) : BitVec.ofNat 32 k + 1#32 = BitVec.ofNat 32 (k + 1) := (BitVec.ofNat_add k 1).symm

/-! ## What an item of the loop answers -/

section
variable {v : State} (reliable : BusReliable v) (inStart : Bool)
include reliable

/-- A status read of a waiting word: the zero push and the pop come (R254). -/
theorem access_syncStatus_waiting (layout : DefaultLayout v) {e : RxEntry} {left : List RxEntry} (waiting : v.fifo.rx = e :: left) :
    access (.syncStatus inStart) v =
      .done (v.setInputs (drawOf v.inputs).2) [.countRead, .syncPush, .syncPop inStart] := by
  have rxd : fieldTest v.params.regmap.cs.rxd (csValue v (drawOf v.inputs).1) = true := by
    rw [show v.params.regmap = bcm2835 from layout]
    obtain ⟨-, -, -, rxd, -, -⟩ := csValue_flags layout (drawOf v.inputs).1
    exact rxd.trans (by simp [flagRxd, waiting])
  simp only [access, actRead, regRead_reliable reliable, readOnBus, if_pos rxd]

/-- A status read of an empty FIFO: the loop goes round or is over (R254). -/
theorem access_syncStatus_empty (layout : DefaultLayout v) (empty : v.fifo.rx = []) :
    access (.syncStatus inStart) v =
      syncAgain inStart (v.ctx.sync.iters + 1#32) [.countRead] (v.setInputs (drawOf v.inputs).2) := by
  have rxd : ¬fieldTest v.params.regmap.cs.rxd (csValue v (drawOf v.inputs).1) = true := by
    rw [show v.params.regmap = bcm2835 from layout]
    obtain ⟨-, -, -, rxd, -, -⟩ := csValue_flags layout (drawOf v.inputs).1
    rw [show fieldTest bcm2835.cs.rxd _ = flagRxd v from rxd]
    simp [flagRxd, empty]
  simp only [access, actRead, regRead_reliable reliable, readOnBus, if_neg rxd]
  rfl

/-- The zero push of a round (R254). -/
theorem access_syncPush (on : FifoOpen v) (room : v.fifo.tx.length < v.params.fifoDepth) :
    access .syncPush v = .done (v.pushed 1) [] := by
  have push := regWrite_zero_fits reliable on v.ctrl.m v.ctrl.todo room
  rw [show v.paused v.ctrl.m v.ctrl.todo = v from rfl] at push
  simp only [access, actWrite, push]
  rfl

/-- The pop of a round: the word goes to the comparison (R254, R256). -/
theorem access_syncPop (on : FifoOpen v) {e : RxEntry} {left : List RxEntry} (waiting : v.fifo.rx = e :: left) :
    access (.syncPop inStart) v = syncPopped inStart e.word (v.setFifo { v.fifo with rx := left }) := by
  simp only [access, actRead, regRead_reliable reliable, readOnBus_fifoA_cons on waiting]

end

/-- The limit of status reads is reached exactly at its number (R258). -/
theorem syncSpent_limit {p : Params} {limit reads : Nat} (h : p.syncPollLimit = some limit) (word : reads < 2 ^ 32) :
    syncSpent p (BitVec.ofNat 32 reads) = (reads == limit) := by
  simp only [syncSpent, h, BitVec.toNat_ofNat, Nat.mod_eq_of_lt word]

/-- Below its number, if there is one, it is not reached. -/
theorem syncSpent_below {p : Params} {reads : Nat} (below : ∀ limit, p.syncPollLimit = some limit → reads < limit)
    (word : reads < 2 ^ 32) : syncSpent p (BitVec.ofNat 32 reads) = false := by
  cases h : p.syncPollLimit with
  | none => simp only [syncSpent, h]
  | some limit => simpa [syncSpent_limit h word] using (below limit h).ne

/-! ## From the start to the first status read (R254) -/

/-- The enables are set as the mask says and the synchronizer's registers cleared. -/
theorem Reached.syncBegins {i : Instr} {s v : State} {n : Nat} {tx rx inStart : Bool} {rest : List Micro}
    (here : Reached i s n (syncFifosSeq bcmCs tx rx inStart ++ rest) v) (ctrl : cmdAgent i = .ctrl) (layout : DefaultLayout v)
    (reliable : BusReliable v) :
    ∃ cs pipe, CsLeft (v.params.updateAlwaysWrites = false ∧ v.pr.cs.txon = tx ∧ v.pr.cs.rxon = rx)
        { v.pr.cs with txon := tx, rxon := rx, txerr := false, rxerr := false } v.pr.cs cs v.pipe pipe ∧
      Reached i s (n + 2) (.syncStatus inStart :: rest) (syncCleared (v.withCs cs pipe (drawOf v.inputs).2)) := by
  obtain ⟨cs, pipe, left, set⟩ := here.updateCs ctrl layout reliable (settable_enables true true)
  exact ⟨cs, pipe, left.enables, (set.goes ctrl rfl).quiet fun _ _ => rfl⟩

/-- A field of CS_A that an update's write leaves is as it was. -/
theorem CsLeft.kept {idle : Prop} {fields cs cs' : CsA} {pipe pipe' : Pipe} {α : Type} (left : CsLeft idle fields cs cs' pipe pipe')
    {field : CsA → α} (same : field fields = field cs) : field cs' = field cs := by
  by_cases h : idle
  · rw [(left.1 h).1]
  · rw [(left.2 h).1, same]

/-- SYNC_FIFOS' items on the default layout (R254). -/
theorem reached_syncFifos {s : State} (start : AtStart s) (layout : DefaultLayout s) (tx rx : Bool) :
    Reached (.syncFifos tx rx) s 0 (syncFifosSeq bcmCs tx rx false ++ [.ret .ok]) s := by
  have begins : commandBegin (.syncFifos tx rx) s = .run s (syncFifosSeq s.params.regmap.cs tx rx false ++ [.ret .ok]) := rfl
  rw [show s.params.regmap = bcm2835 from layout] at begins
  exact .start rfl start begins

/-! ## An empty RX FIFO (R254, R258) -/

/-- `reads` status reads counted. -/
def State.polled (v : State) (reads : Nat) (inputs : Inputs) : State :=
  { v with ctx := { v.ctx with sync := { v.ctx.sync with iters := BitVec.ofNat 32 reads } }, inputs := inputs }

/-- The status read just made is counted. -/
theorem quiet_countRead_polled (v : State) (reads : Nat) (inputs : Inputs) (m : Nat) (waiting : List Micro) :
    quiet .countRead ((v.polled reads inputs).paused m waiting) = .act ((v.polled (reads + 1) inputs).paused m waiting) := by
  have counted : readCounted (v.polled reads inputs) = v.polled (reads + 1) inputs := by
    simp only [readCounted, State.polled, ofNat_succ]
    rfl
  rw [← counted]
  rfl

/-- A status read that finds the RX FIFO empty: the limit decides (R254, R258). -/
theorem access_syncStatus_polled {v : State} (reliable : BusReliable v) (layout : DefaultLayout v) (empty : v.fifo.rx = [])
    {limit reads : Nat} (limited : v.params.syncPollLimit = some limit) (word : reads + 1 < 2 ^ 32) (inStart : Bool) (inputs : Inputs)
    (m : Nat) (waiting : List Micro) :
    access (.syncStatus inStart) ((v.polled reads inputs).paused m waiting) =
      if reads + 1 = limit then .replace ((v.polled reads (drawOf inputs).2).paused m waiting) (.countRead :: syncTimedOut inStart v)
      else .done ((v.polled reads (drawOf inputs).2).paused m waiting) [.countRead, .syncStatus inStart] := by
  rw [access_syncStatus_empty (v := (v.polled reads inputs).paused m waiting) reliable inStart layout empty]
  have iters : ((v.polled reads inputs).paused m waiting).ctx.sync.iters + 1#32 = BitVec.ofNat 32 (reads + 1) := ofNat_succ reads
  have spent : syncSpent (((v.polled reads inputs).paused m waiting).setInputs
      (drawOf ((v.polled reads inputs).paused m waiting).inputs).2).params (BitVec.ofNat 32 (reads + 1)) = (reads + 1 == limit) :=
    syncSpent_limit limited word
  rw [syncAgain, iters, spent]
  simp only [beq_iff_eq]
  rfl

/-- Status reads up to the limit, none of which finds a word. -/
theorem Reached.polls_empty {i : Instr} {s v : State} {n reads more : Nat} {inStart : Bool} {rest : List Micro} {inputs : Inputs}
    (here : Reached i s n (.syncStatus inStart :: rest) (v.polled reads inputs)) (ctrl : cmdAgent i = .ctrl) (layout : DefaultLayout v)
    (reliable : BusReliable v) (empty : v.fifo.rx = []) (limited : v.params.syncPollLimit = some (reads + 1 + more))
    (word : reads + 1 + more < 2 ^ 32) :
    ∃ inputs', Done i s (n + 1 + more) (.countRead :: syncTimedOut inStart v) (v.polled (reads + more) inputs') := by
  have answer := access_syncStatus_polled reliable layout empty limited (show reads + 1 < 2 ^ 32 by omega) inStart inputs
  induction more generalizing n reads inputs with
  | zero => exact ⟨_, here.replaced rfl fun m waiting => (answer m waiting).trans (if_pos rfl)⟩
  | succ more ih =>
    have again := (here.done rfl fun m waiting => (answer m waiting).trans (if_neg (by omega))).goes ctrl rfl
    have counted := again.quiet (quiet_countRead_polled v reads (drawOf inputs).2)
    have shift : ∀ k, k + (more + 1) = k + 1 + more := fun k => by omega
    rw [shift] at limited word
    rw [shift, shift]
    exact ih counted limited word (access_syncStatus_polled reliable layout empty limited (by omega) inStart _)

/-- Outside START the loop that reaches the limit ends its command (R258). -/
theorem Reached.syncTimesOut {i : Instr} {s v : State} {n limit : Nat} {rest : List Micro}
    (here : Reached i s n (.syncStatus false :: rest) (syncCleared v)) (ctrl : cmdAgent i = .ctrl) (layout : DefaultLayout v)
    (reliable : BusReliable v) (empty : v.fifo.rx = []) (limited : v.params.syncPollLimit = some limit) (some_read : 0 < limit)
    (word : limit < 2 ^ 32) :
    ∃ inputs, execFor i (n + limit) s = .next (endCommand (operandWords i) .syncTimeout ((syncCleared v).polled limit inputs)) := by
  obtain ⟨more, rfl⟩ := Nat.exists_eq_add_of_le some_read
  obtain ⟨inputs, last⟩ := here.polls_empty (v := syncCleared v) (reads := 0) (inputs := v.inputs) ctrl layout reliable empty
    limited word
  have run := last.ends (t := endCommand (operandWords i) .syncTimeout ((syncCleared v).polled (0 + more + 1) inputs))
    fun m waiting => runQuiet_act (quiet_countRead_polled (syncCleared v) (0 + more) inputs m waiting) _ _
  rw [Nat.add_right_comm 0 more 1, Nat.add_assoc n 1 more, ← Nat.zero_add 1] at run
  exact ⟨inputs, run⟩

/-- Settles O30: the enables' update, then as many status reads as the limit allows, the last one ending the command. -/
theorem syncTimesOut : Obligations.SyncTimesOut := by
  intro s tx rx n start layout reliable empty limited some_read word same
  obtain ⟨cs, pipe, left, here⟩ := (reached_syncFifos start layout tx rx).syncBegins rfl layout reliable
  obtain ⟨inputs, run⟩ := here.syncTimesOut rfl layout reliable empty limited some_read word
  rw [show 0 + 2 + n = n + 1 + 1 by omega] at run
  obtain ⟨s1, first, others⟩ := execFor_first run
  refine ⟨s1, _, inputs, first, others, left.1, left.2, ?_⟩
  simp only [endCommand, State.polled, syncCleared, State.withCs, State.setCtx, State.setCtrl, State.setTraces]
  rfl

/-! ## Waiting words (R254, R256) -/

/-- The synchronizer has popped `ws`, each counted and recorded, with a zero pushed for each; `left` is left of the RX FIFO (R254). -/
def State.popped (v : State) (ws : List Word) (left : List RxEntry) (inputs : Inputs) : State :=
  { v with
    ctx := { v.ctx with sync := ⟨BitVec.ofNat 32 ws.length, ws.getLastD 0#32, !ws.isEmpty, BitVec.ofNat 32 ws.length⟩ }
    fifo := ⟨v.fifo.tx ++ List.replicate ws.length 0#32, left⟩
    traces := { v.traces with discardLog := ws }
    inputs := inputs }

/-- The word `w` popped after `ws` makes a zero pair (R256). -/
def zeroPair (ws : List Word) (w : Word) : Bool := !ws.isEmpty && ws.getLastD 0#32 == 0#32 && w == 0#32

/-- In a list of words without a zero pair no word makes one with the one before. -/
theorem not_zeroPair {ws more : List Word} {w : Word} (h : noZeroPair (ws ++ w :: more) = true) : zeroPair ws w = false := by
  induction ws with
  | nil => rfl
  | cons a ws ih =>
    cases ws with
    | nil =>
      simp only [List.singleton_append, noZeroPair, Bool.and_eq_true, Bool.not_eq_true'] at h
      exact h.1
    | cons b ws =>
      simp only [List.cons_append, noZeroPair, Bool.and_eq_true] at h
      exact ih h.2

/-- The state between a pop and its record: its status read counted, its zero pushed (R254). -/
def State.popping (v : State) (ws : List Word) (left : List RxEntry) (inputs : Inputs) : State :=
  (readCounted (v.popped ws left inputs)).pushed 1

/-- One word more popped, its count, its zero and its record named. -/
theorem popped_concat (v : State) (ws : List Word) (w : Word) (left : List RxEntry) (inputs : Inputs) :
    v.popped (ws ++ [w]) left inputs =
      { v with
        ctx := { v.ctx with sync := ⟨BitVec.ofNat 32 ws.length + 1#32, w, true, BitVec.ofNat 32 ws.length + 1#32⟩ }
        fifo := ⟨v.fifo.tx ++ List.replicate ws.length 0#32 ++ List.replicate 1 0#32, left⟩
        traces := { v.traces with discardLog := ws ++ [w] }
        inputs := inputs } := by
  have kept : (ws ++ [w]).isEmpty = false := by simp
  simp only [State.popped, kept, List.length_append, List.length_singleton, List.getLastD_concat, ofNat_succ, List.append_assoc,
    List.replicate_append_replicate, Bool.not_false]

/-- The word popped counted, recorded and kept for the next comparison. -/
theorem popRetained_popping (v : State) (ws : List Word) (w : Word) (left : List RxEntry) (inputs : Inputs) :
    popRetained w (popCounted w (v.popping ws left inputs)) = v.popped (ws ++ [w]) left inputs := by
  rw [popped_concat]
  simp only [State.popping, State.popped, State.pushed, readCounted, popCounted, popRetained, State.setCtx, State.setTraces]

/-- The second word of a zero pair is counted and recorded only: the first one is there still (R254, R256). -/
theorem quiet_countPop_pair {ws : List Word} {w : Word} (pair : zeroPair ws w = true) (v : State) (left : List RxEntry)
    (inputs : Inputs) (m : Nat) (waiting : List Micro) :
    quiet (.countPop w) ((v.popping ws left inputs).paused m waiting) = .act ((v.popped (ws ++ [w]) left inputs).paused m waiting) := by
  simp only [zeroPair, Bool.and_eq_true, beq_iff_eq] at pair
  obtain ⟨⟨valid, prev⟩, rfl⟩ := pair
  rw [popped_concat]
  simp only [quiet, popCounted, State.paused, State.popping, State.popped, State.pushed, readCounted, State.setCtx, State.setCtrl,
    State.setTraces, valid, prev]

section
variable {i : Instr} {s v : State} {n : Nat} {ws : List Word} {e : RxEntry} {left : List RxEntry} {inputs : Inputs} {inStart : Bool}
  {rest : List Micro}

/-- A round of the loop up to its pop: the status read sees the word, and a zero is pushed for it (R254). -/
theorem Reached.seesWord (here : Reached i s n (.syncStatus inStart :: rest) (v.popped ws (e :: left) inputs))
    (ctrl : cmdAgent i = .ctrl) (layout : DefaultLayout v) (reliable : BusReliable v) (on : FifoOpen v)
    (room : v.fifo.tx.length + ws.length < v.params.fifoDepth) :
    Reached i s (n + 2) (.syncPop inStart :: rest) (v.popping ws (e :: left) (drawOf inputs).2) := by
  have read := (here.done (t := v.popped ws (e :: left) (drawOf inputs).2) rfl fun m waiting =>
    access_syncStatus_waiting (v := (v.popped ws (e :: left) inputs).paused m waiting) reliable inStart layout rfl).goes ctrl rfl
  have counted := read.quiet (t := readCounted (v.popped ws (e :: left) (drawOf inputs).2)) fun _ _ => rfl
  exact (counted.done (t := v.popping ws (e :: left) (drawOf inputs).2) rfl fun m waiting =>
    access_syncPush (v := (readCounted (v.popped ws (e :: left) (drawOf inputs).2)).paused m waiting) reliable on
      (by simpa [State.popped, State.paused, readCounted] using room)).goes ctrl rfl

/-- What the pop of a round answers (R254). -/
theorem access_syncPop_popping (reliable : BusReliable v) (on : FifoOpen v) (m : Nat) (waiting : List Micro) :
    access (.syncPop inStart) ((v.popping ws (e :: left) inputs).paused m waiting) =
      if zeroPair ws e.word then .done ((v.popping ws left inputs).paused m waiting) [.countPop e.word]
      else syncAgain inStart (BitVec.ofNat 32 (ws.length + 1)) [.countPop e.word, .retain e.word]
        ((v.popping ws left inputs).paused m waiting) := by
  rw [access_syncPop (v := (v.popping ws (e :: left) inputs).paused m waiting) reliable inStart on rfl, ← ofNat_succ]
  rfl

/-- A whole round, whose word makes no zero pair with the one before, below the limit (R254, R258). -/
theorem Reached.pops_word (here : Reached i s n (.syncStatus inStart :: rest) (v.popped ws (e :: left) inputs))
    (ctrl : cmdAgent i = .ctrl) (layout : DefaultLayout v) (reliable : BusReliable v) (on : FifoOpen v)
    (room : v.fifo.tx.length + ws.length < v.params.fifoDepth) (other : zeroPair ws e.word = false)
    (word : ws.length + 1 < 2 ^ 32) (below : ∀ limit, v.params.syncPollLimit = some limit → ws.length + 1 < limit) :
    Reached i s (n + 3) (.syncStatus inStart :: rest) (v.popped (ws ++ [e.word]) left (drawOf inputs).2) := by
  have unspent : ∀ m waiting, syncSpent ((v.popping ws left (drawOf inputs).2).paused m waiting).params
      (BitVec.ofNat 32 (ws.length + 1)) = false := fun _ _ => syncSpent_below (p := v.params) below word
  have popped := (here.seesWord ctrl layout reliable on room).done (t := v.popping ws left (drawOf inputs).2)
    (more := [.countPop e.word, .retain e.word, .syncStatus inStart]) rfl fun m waiting => by
      rw [access_syncPop_popping reliable on, other, syncAgain, unspent]
      rfl
  rw [← popRetained_popping]
  exact ((popped.goes ctrl rfl).quiet fun _ _ => rfl).quiet fun _ _ => rfl

/-- A whole round, whose word makes a zero pair with the one before: the loop is over (R254, R256). -/
theorem Reached.pops_pair (here : Reached i s n (.syncStatus inStart :: rest) (v.popped ws (e :: left) inputs))
    (ctrl : cmdAgent i = .ctrl) (layout : DefaultLayout v) (reliable : BusReliable v) (on : FifoOpen v)
    (room : v.fifo.tx.length + ws.length < v.params.fifoDepth) (pair : zeroPair ws e.word = true) :
    Done i s (n + 3) (.countPop e.word :: rest) (v.popping ws left (drawOf inputs).2) :=
  (here.seesWord ctrl layout reliable on room).done (more := [.countPop e.word]) rfl fun m waiting =>
    (access_syncPop_popping reliable on m waiting).trans (if_pos pair)

end

/-- Rounds of the loop for the words `q`, none of which makes a zero pair with the one before (R254). -/
theorem Reached.pops {i : Instr} {s v : State} {n : Nat} {ws : List Word} {q left : List RxEntry} {inputs : Inputs} {inStart : Bool}
    {rest : List Micro} (here : Reached i s n (.syncStatus inStart :: rest) (v.popped ws (q ++ left) inputs))
    (ctrl : cmdAgent i = .ctrl) (layout : DefaultLayout v) (reliable : BusReliable v) (on : FifoOpen v)
    (room : v.fifo.tx.length + (ws.length + q.length) ≤ v.params.fifoDepth) (others : noZeroPair (ws ++ q.map RxEntry.word) = true)
    (word : ws.length + q.length < 2 ^ 32) (below : ∀ limit, v.params.syncPollLimit = some limit → ws.length + q.length < limit) :
    ∃ inputs', Reached i s (n + 3 * q.length) (.syncStatus inStart :: rest) (v.popped (ws ++ q.map RxEntry.word) left inputs') := by
  induction q generalizing n ws inputs with
  | nil => exact ⟨inputs, by simpa using here⟩
  | cons e q ih =>
    rw [List.length_cons] at room word below
    have first := here.pops_word ctrl layout reliable on (by omega) (not_zeroPair others) (by omega)
      fun limit h => by have := below limit h; omega
    rw [List.map_cons, List.append_cons] at others
    obtain ⟨inputs', run⟩ := ih first (by simp; omega) others (by simp; omega) fun limit h => by have := below limit h; simp; omega
    rw [List.map_cons, List.append_cons, List.length_cons, Nat.mul_succ, Nat.add_comm (3 * _), ← Nat.add_assoc]
    exact ⟨inputs', run⟩

/-- Nothing popped yet. -/
theorem popped_nil (v : State) : (syncCleared v).popped [] v.fifo.rx v.inputs = syncCleared v := by
  simp only [State.popped, List.length_nil, List.replicate_zero, List.append_nil]
  rfl

/-- The loop on waiting words, up to the words `q` and `last` whose zeros make the first zero pair (R254, R256). -/
theorem Reached.findsPair {i : Instr} {s v : State} {n : Nat} {q left : List RxEntry} {last : RxEntry} {inStart : Bool}
    {rest : List Micro} (here : Reached i s n (.syncStatus inStart :: rest) (syncCleared v)) (ctrl : cmdAgent i = .ctrl) (layout : DefaultLayout v)
    (reliable : BusReliable v) (on : FifoOpen v) (waiting : v.fifo.rx = q ++ last :: left)
    (room : v.fifo.tx.length + (q.length + 1) ≤ v.params.fifoDepth) (others : noZeroPair (q.map RxEntry.word) = true)
    (pair : zeroPair (q.map RxEntry.word) last.word = true) (word : q.length < 2 ^ 32)
    (below : ∀ limit, v.params.syncPollLimit = some limit → q.length < limit) :
    ∃ inputs, Done i s (n + 3 * q.length + 3) (.countPop last.word :: rest)
      ((syncCleared v).popping (q.map RxEntry.word) left inputs) := by
  rw [← popped_nil v, waiting] at here
  obtain ⟨inputs, before⟩ := here.pops (v := syncCleared v) (ws := []) ctrl layout reliable on
    (by rw [List.length_nil, Nat.zero_add]; exact (Nat.le_succ _).trans room) others (by rwa [List.length_nil, Nat.zero_add])
    (by rw [List.length_nil, Nat.zero_add]; exact below)
  exact ⟨_, before.pops_pair ctrl layout reliable on (by rw [List.nil_append, List.length_map]; exact room) pair⟩

/-- Outside START the loop that finds the pair ends its command (R256). -/
theorem Reached.syncFinds {i : Instr} {s v : State} {n : Nat} {q left : List RxEntry} {last : RxEntry}
    (here : Reached i s n [.syncStatus false, .ret .ok] (syncCleared v)) (ctrl : cmdAgent i = .ctrl) (layout : DefaultLayout v)
    (reliable : BusReliable v) (on : FifoOpen v) (waiting : v.fifo.rx = q ++ last :: left)
    (room : v.fifo.tx.length + (q.length + 1) ≤ v.params.fifoDepth) (others : noZeroPair (q.map RxEntry.word) = true)
    (pair : zeroPair (q.map RxEntry.word) last.word = true) (word : q.length < 2 ^ 32)
    (below : ∀ limit, v.params.syncPollLimit = some limit → q.length < limit) :
    ∃ inputs, execFor i (n + 3 * q.length + 3) s =
      .next (endCommand (operandWords i) .ok ((syncCleared v).popped (q.map RxEntry.word ++ [last.word]) left inputs)) := by
  obtain ⟨inputs, final⟩ := here.findsPair ctrl layout reliable on waiting room others pair word below
  exact ⟨inputs, final.ends fun m waiting => runQuiet_act (quiet_countPop_pair pair (syncCleared v) left inputs m waiting) _ _⟩

/-- Settles O29: rounds up to the first word of the zero pair, and the round that pops the second. -/
theorem syncFindsZeroPair : Obligations.SyncFindsZeroPair := by
  intro s tx rx pre rest e f start layout reliable on waiting first_zero second_zero others k word room limit same
  obtain ⟨cs, pipe, left, here⟩ := (reached_syncFifos start layout tx rx).syncBegins rfl layout reliable
  have words : (pre ++ [e]).map RxEntry.word = pre.map RxEntry.word ++ [0#32] := by simp [first_zero]
  have count : (pre ++ [e]).length = pre.length + 1 := by simp
  have pair : zeroPair ((pre ++ [e]).map RxEntry.word) f.word = true := by simp [words, zeroPair, second_zero]
  have still_on : FifoOpen (s.withCs cs pipe (drawOf s.inputs).2) :=
    ⟨(left.kept (field := CsA.en) rfl).trans on.1, (left.kept (field := CsA.stby) rfl).trans on.2⟩
  rw [List.append_cons] at waiting
  obtain ⟨inputs, run⟩ := here.syncFinds rfl layout reliable still_on waiting (by rw [count]; exact room) (words ▸ others) pair
    (by omega) fun n h => by have := limit n h; omega
  rw [words, count, second_zero, List.append_assoc, show 0 + 2 + 3 * (pre.length + 1) + 3 = 3 * k + 1 + 1 by omega] at run
  obtain ⟨s1, first, others⟩ := execFor_first run
  refine ⟨s1, _, inputs, first, others, left.1, left.2, ?_⟩
  have popped_words : (pre.map RxEntry.word ++ ([0#32] ++ [0#32])).length = k ∧
      (pre.map RxEntry.word ++ ([0#32] ++ [0#32])).getLastD 0#32 = 0#32 ∧
      (pre.map RxEntry.word ++ ([0#32] ++ [0#32])).isEmpty = false := by simp [k]
  simp only [endCommand, State.popped, popped_words, syncCleared, State.withCs, State.setCtx, State.setCtrl, State.setTraces]
  rfl

end Sys2Proof.Machine
end

section
/-! SUPPORT. CLEAR_FIFOS (R250 to R252): its three updates before the poll, the poll, and its last update; with them O26 and O27. -/

namespace Sys2Proof.Machine

/-! ## The echo and the enables of a CS_A read (R185, R250) -/

/-- A one-bit field alone of a word. -/
theorem and_fieldBit (w : Word) (f : Field) : w &&& fieldBit f true = fieldBit f (w.getLsbD f.lo) := by
  apply BitVec.eq_of_getElem_eq
  intro i hi
  rw [BitVec.getElem_and, fieldBit_getElem, fieldBit_getElem, Bool.and_true, Bool.and_comm]
  by_cases here : i = f.lo
  · rw [← here, BitVec.getLsbD_eq_getElem]
  · simp [here]

/-- The SYNC bit of a CS_A read alone: the echo CLEAR_FIFOS compares (R250). -/
def echoWord (echo : Bool) : Word := fieldBit bcmCs.sync echo

theorem echoWord_inj {a b : Bool} : echoWord a = echoWord b ↔ a = b := by revert a b; decide

/-- The echo of a CS_A read (R185). -/
theorem csValue_echo {v : State} (layout : DefaultLayout v) (d : Word) :
    csValue v d &&& fieldMask bcmCs.sync = echoWord v.pipe.syncR := by
  obtain ⟨-, -, -, -, -, -, -, -, -, sync, -⟩ := csValue_stored layout d
  rw [show fieldMask bcmCs.sync = fieldBit bcmCs.sync true by decide, and_fieldBit, echoWord, ← sync]
  rfl

theorem enableMask_bits (tx rx : Bool) : enableMask bcmCs tx rx = fieldBit bcmCs.txon tx ||| fieldBit bcmCs.rxon rx := by
  cases tx <;> cases rx <;> decide

/-- The enables of a CS_A read, as the mask that sets them (R185). -/
theorem csValue_enables {v : State} (layout : DefaultLayout v) (d : Word) :
    csValue v d &&& enableMask bcmCs true true = enableMask bcmCs v.pr.cs.txon v.pr.cs.rxon := by
  obtain ⟨-, rxon, txon, -⟩ := csValue_stored layout d
  rw [enableMask_bits, enableMask_bits, BitVec.and_or_distrib_left, and_fieldBit, and_fieldBit, ← txon, ← rxon]
  rfl

/-! ## What an item of CLEAR_FIFOS that reads CS_A answers (R250) -/

section
variable {v : State} (layout : DefaultLayout v) (reliable : BusReliable v)
include layout reliable

theorem access_clearSave (tx rx : Bool) :
    access (.clearSave tx rx) v =
      .done (v.setInputs (drawOf v.inputs).2) (clearAfterSave bcmCs tx rx (enableMask bcmCs v.pr.cs.txon v.pr.cs.rxon)) := by
  simp only [access, actRead, regRead_reliable reliable, readOnBus]
  rw [show v.params.regmap.cs = bcmCs by rw [layout]; rfl, csValue_enables layout]

theorem access_clearEcho :
    access .clearEcho v =
      .done (v.setInputs (drawOf v.inputs).2)
        [.updRead .csA (fieldMask bcmCs.sync) (~~~echoWord v.pipe.syncR),
          .clearPoll (echoWord v.pipe.syncR) v.params.clearPollLimit] := by
  simp only [access, actRead, regRead_reliable reliable, readOnBus]
  rw [show v.params.regmap.cs = bcmCs by rw [layout]; rfl, csValue_echo layout]

theorem access_clearPoll (echo : Bool) (n : Nat) :
    access (.clearPoll (echoWord echo) (n + 1)) v =
      .done (v.setInputs (drawOf v.inputs).2) (if v.pipe.syncR = echo then [.clearPoll (echoWord echo) n] else []) := by
  simp only [access, actRead, regRead_reliable reliable, readOnBus]
  rw [show v.params.regmap.cs = bcmCs by rw [layout]; rfl, csValue_echo layout]
  simp only [echoWord_inj]

end

/-! ## The updates before the poll (R182, R250) -/

/-- The clears asked for, where none is pending (R76, R250). -/
def clearsAsked (tx rx : Bool) (p : Pipe) : Pipe :=
  { p with
    clrTx := if tx = true ∧ p.clrTx = .none then .zero else p.clrTx
    clrRx := if rx = true ∧ p.clrRx = .none then .zero else p.clrRx }

/-- SYNC written as the complement of its echo (R75, R250). -/
def syncToggled (p : Pipe) : Pipe := { p with syncW := !p.syncR, syncCnt := if p.syncW = !p.syncR then p.syncCnt else 0 }

/-- The mask names no FIFO and no write is forced: CLEAR_FIFOS does not write CS_A before its toggle (R182, R250). -/
def NamesNone (p : Params) (tx rx : Bool) : Prop := tx = false ∧ rx = false ∧ p.updateAlwaysWrites = false

section
variable {v : State} {tx rx : Bool} {cs : CsA} {pipe : Pipe}

/-- An update of CS_A either changes nothing or writes what its mask picks (R182). -/
theorem CsUpdates.cases {mask val : Word} (left : CsUpdates mask val v cs pipe) :
    (v.params.updateAlwaysWrites = false ∧ csSame mask val v ∧ cs = v.pr.cs ∧ pipe = v.pipe) ∨
      (¬(v.params.updateAlwaysWrites = false ∧ csSame mask val v) ∧ cs = csPicked mask val v ∧ pipe = pipePicked mask val v.pipe) := by
  by_cases idle : v.params.updateAlwaysWrites = false ∧ csSame mask val v
  · exact .inl ⟨idle.1, idle.2, left.1 idle⟩
  · exact .inr ⟨idle, left.2 idle⟩

theorem csSame_disables :
    csSame (enableMask bcmCs tx rx) 0#32 v ↔ (rx = true → v.pr.cs.rxon = false) ∧ (tx = true → v.pr.cs.txon = false) := by
  cases tx <;> cases rx <;> simp [csSame, enableMask, bcmCs, fieldMask]

theorem csPicked_disables :
    csPicked (enableMask bcmCs tx rx) 0#32 v =
      { v.pr.cs with txon := v.pr.cs.txon && !tx, rxon := v.pr.cs.rxon && !rx, txerr := false, rxerr := false } := by
  cases tx <;> cases rx <;> simp [csPicked, pick, pick2, and_three, enableMask, bcmCs, fieldMask]

/-- The named enables cleared: an error flag may be cleared with them, and SYNC is carried back where anything is written (R250). -/
theorem CsUpdates.disables (left : CsUpdates (enableMask bcmCs tx rx) 0#32 v cs pipe) :
    cs = { v.pr.cs with txon := v.pr.cs.txon && !tx, rxon := v.pr.cs.rxon && !rx, txerr := cs.txerr, rxerr := cs.rxerr } ∧
      (pipe = v.pipe ∨ pipe = echoBack v.pipe) ∧ (NamesNone v.params tx rx → pipe = v.pipe) := by
  obtain ⟨-, same, rfl, rfl⟩ | ⟨writes, rfl, rfl⟩ := left.cases
  · obtain ⟨rx_off, tx_off⟩ := csSame_disables.mp same
    have rxon : (v.pr.cs.rxon && !rx) = v.pr.cs.rxon := by cases rx <;> simp [rx_off]
    have txon : (v.pr.cs.txon && !tx) = v.pr.cs.txon := by cases tx <;> simp [tx_off]
    exact ⟨by rw [rxon, txon], .inl rfl, fun _ => rfl⟩
  · have keeps : (enableMask bcmCs tx rx).getLsbD 3 = false ∧ (enableMask bcmCs tx rx).getLsbD 4 = false ∧
      (enableMask bcmCs tx rx).getLsbD 24 = false := by cases tx <;> cases rx <;> decide
    obtain ⟨no_txclr, no_rxclr, no_sync⟩ := keeps
    refine ⟨by rw [csPicked_disables], .inr (pipePicked_keep no_txclr no_rxclr no_sync _ _), ?_⟩
    rintro ⟨rfl, rfl, unforced⟩
    exact absurd ⟨unforced, csSame_disables.mpr (by simp)⟩ writes

theorem csSame_clears : csSame (clearMask bcmCs tx rx) (clearMask bcmCs tx rx) v ↔ tx = false ∧ rx = false := by
  cases tx <;> cases rx <;> simp [csSame, clearMask, bcmCs, fieldMask]

theorem csPicked_clears :
    csPicked (clearMask bcmCs tx rx) (clearMask bcmCs tx rx) v = { v.pr.cs with txerr := false, rxerr := false } := by
  cases tx <;> cases rx <;> simp [csPicked, pick, pick2, and_three, clearMask, bcmCs, fieldMask]

theorem pipePicked_clears (p : Pipe) : pipePicked (clearMask bcmCs tx rx) (clearMask bcmCs tx rx) p = clearsAsked tx rx (echoBack p) := by
  cases tx <;> cases rx <;> simp [pipePicked, pick, clearMask, bcmCs, fieldMask, clearsAsked, echoBack]

/-- The clears asked for: nothing is written only where none is named and no write is forced (R250). -/
theorem CsUpdates.clears (left : CsUpdates (clearMask bcmCs tx rx) (clearMask bcmCs tx rx) v cs pipe) :
    cs = { v.pr.cs with txerr := cs.txerr, rxerr := cs.rxerr } ∧
      (NamesNone v.params tx rx → pipe = v.pipe) ∧ (¬NamesNone v.params tx rx → pipe = clearsAsked tx rx (echoBack v.pipe)) := by
  obtain ⟨unforced, same, rfl, rfl⟩ | ⟨writes, rfl, rfl⟩ := left.cases
  · obtain ⟨rfl, rfl⟩ := csSame_clears.mp same
    exact ⟨rfl, fun _ => rfl, fun named => absurd ⟨rfl, rfl, unforced⟩ named⟩
  · refine ⟨by rw [csPicked_clears], ?_, fun _ => pipePicked_clears _⟩
    rintro ⟨rfl, rfl, unforced⟩
    exact absurd ⟨unforced, csSame_clears.mpr ⟨rfl, rfl⟩⟩ writes

/-- SYNC toggled: this update always writes, and so clears the error flags (R250, R463). -/
theorem CsUpdates.toggles (left : CsUpdates (fieldMask bcmCs.sync) (~~~echoWord v.pipe.syncR) v cs pipe) :
    cs = { v.pr.cs with txerr := false, rxerr := false } ∧ pipe = syncToggled v.pipe := by
  have changes : ¬csSame (fieldMask bcmCs.sync) (~~~echoWord v.pipe.syncR) v := by
    cases echo : v.pipe.syncR <;> simp [csSame, echo, echoWord, bcmCs, fieldMask, fieldBit]
  obtain ⟨rfl, rfl⟩ := left.2 fun idle => changes idle.2
  cases echo : v.pipe.syncR <;>
    simp [csPicked, pipePicked, syncToggled, pick, pick2, and_three, echo, echoWord, bcmCs, fieldMask, fieldBit]

end

/-- The pipelines before the toggle: the named clears asked for, SYNC carried back where anything was written (R182, R250). -/
def pipeWritten (p : Params) (tx rx : Bool) (pipe : Pipe) : Pipe :=
  clearsAsked tx rx (if tx = false ∧ rx = false ∧ p.updateAlwaysWrites = false then pipe else echoBack pipe)

theorem pipeWritten_syncR (p : Params) (tx rx : Bool) (pipe : Pipe) : (pipeWritten p tx rx pipe).syncR = pipe.syncR := by
  unfold pipeWritten; split <;> rfl

theorem pipeWritten_none {p : Params} {tx rx : Bool} (none_named : NamesNone p tx rx) (pipe : Pipe) :
    pipeWritten p tx rx pipe = clearsAsked tx rx pipe := congrArg (clearsAsked tx rx) (if_pos none_named)

theorem pipeWritten_some {p : Params} {tx rx : Bool} (named : ¬NamesNone p tx rx) (pipe : Pipe) :
    pipeWritten p tx rx pipe = clearsAsked tx rx (echoBack pipe) := congrArg (clearsAsked tx rx) (if_neg named)

/-- CS_A after the toggle: the named enables off, the error flags cleared (R250). -/
def csCleared (tx rx : Bool) (c : CsA) : CsA :=
  { c with txon := c.txon && !tx, rxon := c.rxon && !rx, txerr := false, rxerr := false }

/-- The two updates before the toggle together. -/
theorem CsUpdates.written {v : State} {tx rx : Bool} {cs1 cs2 : CsA} {pipe1 pipe2 : Pipe} {inputs : Inputs}
    (disabled : CsUpdates (enableMask bcmCs tx rx) 0#32 v cs1 pipe1)
    (cleared : CsUpdates (clearMask bcmCs tx rx) (clearMask bcmCs tx rx) (v.withCs cs1 pipe1 inputs) cs2 pipe2) :
    { cs2 with txerr := false, rxerr := false } = csCleared tx rx v.pr.cs ∧ pipe2 = pipeWritten v.params tx rx v.pipe := by
  obtain ⟨cs1_eq, pipe1_cases, pipe1_kept⟩ := disabled.disables
  obtain ⟨cs2_eq, pipe2_kept, pipe2_asked⟩ := cleared.clears
  refine ⟨?_, ?_⟩
  · rw [cs2_eq, show (v.withCs cs1 pipe1 inputs).pr.cs = cs1 from rfl, cs1_eq]
    rfl
  · by_cases none_named : NamesNone v.params tx rx
    · rw [pipeWritten_none none_named, pipe2_kept none_named, show (v.withCs cs1 pipe1 inputs).pipe = pipe1 from rfl,
        pipe1_kept none_named]
      obtain ⟨rfl, rfl, -⟩ := none_named
      simp [clearsAsked]
    · rw [pipeWritten_some none_named, pipe2_asked none_named, show (v.withCs cs1 pipe1 inputs).pipe = pipe1 from rfl]
      obtain rfl | rfl := pipe1_cases
      · rfl
      · rw [echoBack_echoBack]

section
variable {i : Instr} {s v : State} {n : Nat} {rest : List Micro}

/-- The save and the two updates before the echo is read (R250). -/
theorem Reached.asksClears {tx rx : Bool} (here : Reached i s n (.clearSave tx rx :: rest) v) (ctrl : cmdAgent i = .ctrl)
    (layout : DefaultLayout v) (reliable : BusReliable v) :
    ∃ cs inputs, { cs with txerr := false, rxerr := false } = csCleared tx rx v.pr.cs ∧
      Reached i s (n + 5)
        (.clearEcho :: .updRead .csA (enableMask bcmCs true true) (enableMask bcmCs v.pr.cs.txon v.pr.cs.rxon) :: rest)
        (v.withCs cs (pipeWritten v.params tx rx v.pipe) inputs) := by
  have saved := (here.done (t := v.setInputs (drawOf v.inputs).2)
    (more := clearAfterSave bcmCs tx rx (enableMask bcmCs v.pr.cs.txon v.pr.cs.rxon)) rfl
    fun m waiting => access_clearSave (v := v.paused m waiting) layout reliable tx rx).goes ctrl rfl
  obtain ⟨cs1, pipe1, disabled, left⟩ := saved.updateCs ctrl layout reliable (settable_enables tx rx)
  obtain ⟨cs2, pipe2, cleared, left⟩ := (left.goes ctrl rfl).updateCs ctrl layout reliable (settable_clears tx rx)
  obtain ⟨cs2_eq, rfl⟩ := CsUpdates.written (v := v.setInputs (drawOf v.inputs).2) disabled cleared
  exact ⟨cs2, _, cs2_eq, left.goes ctrl rfl⟩

/-- The echo read, and SYNC toggled (R250). -/
theorem Reached.togglesSync (here : Reached i s n (.clearEcho :: rest) v) (ctrl : cmdAgent i = .ctrl) (layout : DefaultLayout v)
    (reliable : BusReliable v) :
    ∃ inputs, Done i s (n + 3) (.clearPoll (echoWord v.pipe.syncR) v.params.clearPollLimit :: rest)
      (v.withCs { v.pr.cs with txerr := false, rxerr := false } (syncToggled v.pipe) inputs) := by
  have read := (here.done (t := v.setInputs (drawOf v.inputs).2)
    (more := [.updRead .csA (fieldMask bcmCs.sync) (~~~echoWord v.pipe.syncR),
      .clearPoll (echoWord v.pipe.syncR) v.params.clearPollLimit])
    rfl fun m waiting => access_clearEcho (v := v.paused m waiting) layout reliable).goes ctrl rfl
  obtain ⟨cs, pipe, toggled, left⟩ := read.updateCs ctrl layout reliable settable_sync
  obtain ⟨rfl, rfl⟩ := CsUpdates.toggles (v := v.setInputs (drawOf v.inputs).2) toggled
  exact ⟨_, left⟩

/-- A poll's read that finds the echo unchanged (R250). -/
theorem Reached.clearPoll_same {k : Nat} {echo : Bool} (here : Reached i s n (.clearPoll (echoWord echo) (k + 1) :: rest) v)
    (layout : DefaultLayout v) (reliable : BusReliable v) (same : v.pipe.syncR = echo) :
    Done i s (n + 1) (.clearPoll (echoWord echo) k :: rest) (v.setInputs (drawOf v.inputs).2) :=
  here.done (more := [.clearPoll (echoWord echo) k]) rfl fun m waiting =>
    (access_clearPoll (v := v.paused m waiting) layout reliable echo k).trans (congrArg _ (if_pos same))

/-- A poll's read that finds it changed: the poll is over (R250). -/
theorem Reached.clearPoll_changed {k : Nat} {echo : Bool} (here : Reached i s n (.clearPoll (echoWord echo) (k + 1) :: rest) v)
    (layout : DefaultLayout v) (reliable : BusReliable v) (changed : v.pipe.syncR ≠ echo) :
    Done i s (n + 1) rest (v.setInputs (drawOf v.inputs).2) :=
  here.done (more := []) rfl fun m waiting =>
    (access_clearPoll (v := v.paused m waiting) layout reliable echo k).trans (congrArg _ (if_neg changed))

/-- A poll that no PCM clock reaches makes all its reads (R252). -/
theorem Reached.clearPolls {k : Nat} {echo : Bool} (here : Reached i s n (.clearPoll (echoWord echo) k :: rest) v)
    (ctrl : cmdAgent i = .ctrl) (layout : DefaultLayout v) (reliable : BusReliable v) (same : v.pipe.syncR = echo)
    (acc : hasAccess rest = true) :
    ∃ inputs, Reached i s (n + k) (.clearPoll (echoWord echo) 0 :: rest) (v.setInputs inputs) := by
  induction k generalizing n v with
  | zero => exact ⟨v.inputs, here⟩
  | succ k ih =>
    have pending : hasAccess (.clearPoll (echoWord echo) k :: rest) = true := by simp [hasAccess, acc]
    obtain ⟨inputs, run⟩ := ih ((here.clearPoll_same layout reliable same).goes ctrl pending) layout reliable same
    rw [Nat.add_right_comm] at run
    exact ⟨inputs, run⟩

/-- The last update gives the enables back; the error flags are clear already (R250, R182). -/
theorem Reached.enablesRestored {txon rxon : Bool}
    (here : Reached i s n [.updRead .csA (enableMask bcmCs true true) (enableMask bcmCs txon rxon), .ret .ok] v)
    (ctrl : cmdAgent i = .ctrl) (layout : DefaultLayout v) (reliable : BusReliable v) (txerr : v.pr.cs.txerr = false)
    (rxerr : v.pr.cs.rxerr = false) :
    ∃ pipe inputs, (pipe = v.pipe ∨ pipe = echoBack v.pipe) ∧
      execFor i (n + 2) s =
        .next (endCommand (operandWords i) .ok (v.withCs { v.pr.cs with txon := txon, rxon := rxon } pipe inputs)) := by
  obtain ⟨cs, pipe, left, last⟩ := here.updateCs ctrl layout reliable (settable_enables true true)
  have restored : cs = { v.pr.cs with txon := txon, rxon := rxon } ∧ (pipe = v.pipe ∨ pipe = echoBack v.pipe) := by
    by_cases idle : v.params.updateAlwaysWrites = false ∧ v.pr.cs.txon = txon ∧ v.pr.cs.rxon = rxon
    · obtain ⟨rfl, rfl⟩ := left.enables.1 idle
      obtain ⟨-, rfl, rfl⟩ := idle
      exact ⟨rfl, .inl rfl⟩
    · obtain ⟨rfl, rfl⟩ := left.enables.2 idle
      exact ⟨by simp only [txerr, rxerr], .inr rfl⟩
  obtain ⟨rfl, back⟩ := restored
  exact ⟨pipe, _, back, last.ends fun _ _ => rfl⟩

end

/-- CLEAR_FIFOS' items (R250). -/
theorem reached_clearFifos {s : State} (start : AtStart s) (tx rx : Bool) :
    Reached (.clearFifos tx rx) s 0 [.clearSave tx rx, .ret .ok] s := .start rfl start rfl

/-- CLEAR_FIFOS up to its poll, eight micro-operations with no other agent stepping in between (R250). -/
theorem clear_toggled {s : State} (start : AtStart s) (layout : DefaultLayout s) (reliable : BusReliable s) (tx rx : Bool) :
    ∃ inputs, Done (.clearFifos tx rx) s 8
      [.clearPoll (echoWord s.pipe.syncR) s.params.clearPollLimit,
        .updRead .csA (enableMask bcmCs true true) (enableMask bcmCs s.pr.cs.txon s.pr.cs.rxon), .ret .ok]
      (s.withCs (csCleared tx rx s.pr.cs) (syncToggled (pipeWritten s.params tx rx s.pipe)) inputs) := by
  obtain ⟨cs, _, cleared, here⟩ := (reached_clearFifos start tx rx).asksClears rfl layout reliable
  obtain ⟨inputs, left⟩ := here.togglesSync rfl layout reliable
  rw [← cleared, ← pipeWritten_syncR s.params tx rx s.pipe]
  exact ⟨inputs, left⟩

/-! ## No PCM clock (R252, R461) -/

/-- The pipelines at the end where no clock came: the named clears pending, and SYNC one way or the other (R251, R252). -/
theorem pipe_pending {p : Params} {tx rx : Bool} {pipe q : Pipe}
    (left : q = syncToggled (pipeWritten p tx rx pipe) ∨ q = echoBack (syncToggled (pipeWritten p tx rx pipe))) :
    q = { pipe with
      syncW := q.syncW
      syncCnt := q.syncCnt
      clrTx := if tx = true ∧ pipe.clrTx = .none then .zero else pipe.clrTx
      clrRx := if rx = true ∧ pipe.clrRx = .none then .zero else pipe.clrRx } := by
  unfold pipeWritten at left
  split at left <;> obtain rfl | rfl := left <;> rfl

/-- Settles O26: every read of the poll finds the echo as it was; the timeout is counted with the read of the last update. -/
theorem clearFifosTimesOut : Obligations.ClearFifosTimesOut := by
  intro s tx rx start layout reliable
  obtain ⟨_, toggled⟩ := clear_toggled start layout reliable tx rx
  obtain ⟨polls, polled⟩ := (toggled.goes rfl (by simp [hasAccess, isAccess])).clearPolls rfl layout reliable
    (pipeWritten_syncR s.params tx rx s.pipe) rfl
  have counted := polled.quiet (t := timeoutCounted
    (s.withCs (csCleared tx rx s.pr.cs) (syncToggled (pipeWritten s.params tx rx s.pipe)) polls)) fun _ _ => rfl
  obtain ⟨pipe, inputs, left, run⟩ := counted.enablesRestored rfl layout reliable rfl rfl
  rw [show 8 + s.params.clearPollLimit + 2 = s.params.clearPollLimit + 9 + 1 by omega] at run
  obtain ⟨s1, first, others⟩ := execFor_first run
  refine ⟨s1, pipe.syncW, pipe.syncCnt, inputs, first, others.trans ?_⟩
  rw [← pipe_pending left]
  simp only [endCommand, timeoutCounted, csCleared, State.withCs, State.setCtx, State.setCtrl]
  rfl

/-! ## The pipelines after the toggle (R75, R76, R182) -/

/-- Where the echo has come, SYNC carried back changes nothing (R182). -/
theorem echoBack_echoed {p : Pipe} (settled : p.syncW = p.syncR) : echoBack p = p := by
  obtain ⟨syncW, syncR, syncCnt, clrTx, clrRx, slotPhase⟩ := p
  cases settled
  simp [echoBack]

/-- A clear asked for where none is about to be done is pending, and so is one that was (R76). -/
theorem clear_pending {asked : Bool} {stage : ClearStage} (h : stage ≠ .one) :
    (if asked = true ∧ stage = .none then .zero else stage) = if asked = true ∨ stage = .zero then ClearStage.zero else .none := by
  cases stage with
  | one => exact absurd rfl h
  | none => cases asked <;> rfl
  | zero => cases asked <;> rfl

/-- Where no clear is about to be done, those asked for and those pending before are pending. -/
theorem clearsAsked_pending {pipe : Pipe} (clrTx : pipe.clrTx ≠ .one) (clrRx : pipe.clrRx ≠ .one) (tx rx : Bool) :
    clearsAsked tx rx pipe = { pipe with
      clrTx := if tx = true ∨ pipe.clrTx = .zero then .zero else .none
      clrRx := if rx = true ∨ pipe.clrRx = .zero then .zero else .none } := by
  simp only [clearsAsked, clear_pending clrTx, clear_pending clrRx]

/-- Clears and SYNC are written apart. -/
theorem syncToggled_clearsAsked (tx rx : Bool) (pipe : Pipe) :
    syncToggled (clearsAsked tx rx pipe) = clearsAsked tx rx (syncToggled pipe) := rfl

/-- From idle pipelines: the echo restarted, the named clears pending. -/
theorem pipe_fromIdle {pipe : Pipe} (settled : pipe.syncW = pipe.syncR) (clrTx : pipe.clrTx = .none) (clrRx : pipe.clrRx = .none)
    (p : Params) (tx rx : Bool) :
    syncToggled (pipeWritten p tx rx pipe) = { pipe with
      syncW := !pipe.syncR
      syncCnt := 0
      clrTx := if tx = true then .zero else .none
      clrRx := if rx = true then .zero else .none } := by
  simp [syncToggled, pipeWritten, echoBack_echoed settled, clearsAsked, settled, clrTx, clrRx]

section
variable {pipe : Pipe} (flight : pipe.syncW ≠ pipe.syncR) (clrTx : pipe.clrTx ≠ .one) (clrRx : pipe.clrRx ≠ .one) {p : Params}
  {tx rx : Bool}
include flight clrTx clrRx

/-- From an echo in flight with nothing written first: the toggle writes SYNC as it is, and the echo goes on (R462). -/
theorem pipe_inFlight_none (none_named : NamesNone p tx rx) :
    syncToggled (pipeWritten p tx rx pipe) = { pipe with
      clrTx := if tx = true ∨ pipe.clrTx = .zero then .zero else .none
      clrRx := if rx = true ∨ pipe.clrRx = .zero then .zero else .none } := by
  have goes_on : syncToggled pipe = pipe := by simp [syncToggled, ← Bool.eq_not.mpr flight]
  rw [pipeWritten_none none_named, syncToggled_clearsAsked, goes_on, clearsAsked_pending clrTx clrRx]

/-- From an echo in flight with a write first: that carried SYNC back, and the toggle restarts the echo (R182). -/
theorem pipe_inFlight_some (named : ¬NamesNone p tx rx) :
    syncToggled (pipeWritten p tx rx pipe) = { pipe with
      syncCnt := 0
      clrTx := if tx = true ∨ pipe.clrTx = .zero then .zero else .none
      clrRx := if rx = true ∨ pipe.clrRx = .zero then .zero else .none } := by
  have restarts : syncToggled (echoBack pipe) = { pipe with syncCnt := 0 } := by
    simp [syncToggled, echoBack, ← Bool.eq_not.mpr flight, flight.symm]
  rw [pipeWritten_some named, syncToggled_clearsAsked, restarts]
  exact clearsAsked_pending (pipe := { pipe with syncCnt := 0 }) clrTx clrRx tx rx

end

/-! ## PCM clocks in the poll (R251, R371) -/

section
variable (s : State) (cs : CsA) (clearsTx clearsRx : Prop) [Decidable clearsTx] [Decidable clearsRx] (syncW syncR : Bool) (slot : Slot)
  (inputs : Inputs)

/-- One PCM clock, the echo one clock from its end and no clear about to be done: each pending clear moves on (R371). -/
theorem pcmClock_once {count : Nat} (last : count = 1) :
    pcmClock (s.withCs cs ⟨syncW, syncR, count, if clearsTx then .zero else .none, if clearsRx then .zero else .none, slot⟩ inputs) =
      { s.withCs cs ⟨syncW, syncW, 2, if clearsTx then .one else .none, if clearsRx then .one else .none, slot⟩ inputs with
        fifo := s.fifo } := by
  by_cases tx : clearsTx <;> by_cases rx : clearsRx <;>
    simp [pcmClock, clearedFifos, pipeTick, clearTick, State.withCs, State.setFifo, State.setPipe, last, tx, rx]

/-- Two PCM clocks after SYNC and the clears were written: the echo has come, and each FIFO whose clear was pending is empty (R371). -/
theorem pcmClock_twice :
    pcmClock (pcmClock
        (s.withCs cs ⟨syncW, syncR, 0, if clearsTx then .zero else .none, if clearsRx then .zero else .none, slot⟩ inputs)) =
      { s.withCs cs ⟨syncW, syncW, 2, .none, .none, slot⟩ inputs with
        fifo := ⟨if clearsTx then [] else s.fifo.tx, if clearsRx then [] else s.fifo.rx⟩ } := by
  by_cases tx : clearsTx <;> by_cases rx : clearsRx <;>
    simp [pcmClock, clearedFifos, pipeTick, clearTick, State.withCs, State.setFifo, State.setPipe, tx, rx]

end

/-- The poll's read after the echo has come, and the last update: the command ends with the enables given back (R250, R251). -/
theorem clear_ends {i : Instr} {v : State} {k : Nat} {echo txon rxon : Bool} (ctrl : cmdAgent i = .ctrl) (layout : DefaultLayout v)
    (reliable : BusReliable v) (changed : v.pipe.syncR ≠ echo) (settled : v.pipe.syncW = v.pipe.syncR)
    (txerr : v.pr.cs.txerr = false) (rxerr : v.pr.cs.rxerr = false) (m : Nat) :
    ∃ inputs, execFor i 3 (v.paused (m + 1) [.clearPoll (echoWord echo) (k + 1),
        .updRead .csA (enableMask bcmCs true true) (enableMask bcmCs txon rxon), .ret .ok]) =
      .next (endCommand (operandWords i) .ok (v.withCs { v.pr.cs with txon := txon, rxon := rxon } v.pipe inputs)) := by
  have here := Reached.resumed ctrl v m [.clearPoll (echoWord echo) (k + 1),
    .updRead .csA (enableMask bcmCs true true) (enableMask bcmCs txon rxon), .ret .ok]
  have seen := (here.clearPoll_changed layout reliable changed).goes ctrl rfl
  obtain ⟨pipe, inputs, back, run⟩ := seen.enablesRestored ctrl layout reliable txerr rxerr
  have kept : pipe = v.pipe := back.elim id fun h => h.trans (echoBack_echoed settled)
  subst kept
  exact ⟨inputs, run⟩

/-- From the FIFOs and pipelines the clocks have left, the echo come, to CLEAR_FIFOS' end (R250, R251). -/
theorem clear_completes {s w : State} {tx rx : Bool} {fifo : Fifos} {pipe : Pipe} {drawn : Inputs} (layout : DefaultLayout s)
    (reliable : BusReliable s) (clocked : w = { s.withCs (csCleared tx rx s.pr.cs) pipe drawn with fifo := fifo })
    (changed : pipe.syncR ≠ s.pipe.syncR) (settled : pipe.syncW = pipe.syncR) (some_poll : s.params.clearPollLimit ≠ 0) (m : Nat) :
    ∃ inputs, execFor (.clearFifos tx rx) 3 (w.paused (m + 1) [.clearPoll (echoWord s.pipe.syncR) s.params.clearPollLimit,
        .updRead .csA (enableMask bcmCs true true) (enableMask bcmCs s.pr.cs.txon s.pr.cs.rxon), .ret .ok]) =
      .next { s with
        ctx := { s.ctx with result := .ok }
        pr := { s.pr with cs := { s.pr.cs with txerr := false, rxerr := false } }
        fifo := fifo
        pipe := pipe
        ctrl := ctrlPast s.ctrl 0
        inputs := inputs } := by
  obtain ⟨k, limit⟩ := Nat.exists_eq_succ_of_ne_zero some_poll
  subst clocked
  rw [limit]
  obtain ⟨inputs, ended⟩ := clear_ends (i := .clearFifos tx rx)
    (v := { s.withCs (csCleared tx rx s.pr.cs) pipe drawn with fifo := fifo }) (k := k) (echo := s.pipe.syncR)
    (txon := s.pr.cs.txon) (rxon := s.pr.cs.rxon) rfl layout reliable changed settled rfl rfl m
  refine ⟨inputs, ended.trans ?_⟩
  simp only [endCommand, csCleared, State.withCs, State.setCtx, State.setCtrl]
  rfl

/-- CLEAR_FIFOS up to its poll, as the statement splits it. -/
theorem clear_runs {s : State} (start : AtStart s) (layout : DefaultLayout s) (reliable : BusReliable s) (tx rx : Bool) :
    ∃ s1 m inputs, exec (.clearFifos tx rx) s = .next s1 ∧ execFor (.clearFifos tx rx) 7 s1 =
      .next ((s.withCs (csCleared tx rx s.pr.cs) (syncToggled (pipeWritten s.params tx rx s.pipe)) inputs).paused (m + 1)
        [.clearPoll (echoWord s.pipe.syncR) s.params.clearPollLimit,
          .updRead .csA (enableMask bcmCs true true) (enableMask bcmCs s.pr.cs.txon s.pr.cs.rxon), .ret .ok]) := by
  obtain ⟨inputs, toggled⟩ := clear_toggled start layout reliable tx rx
  obtain ⟨m, run⟩ := toggled.waits (by simp [hasAccess, isAccess])
  obtain ⟨s1, first, others⟩ := execFor_first run
  exact ⟨s1, m, inputs, first, others⟩

/-- Settles O27: the pipelines after the toggle, by what was written before it, then the clocks, then the poll's one read. -/
theorem clearFifosEcho : Obligations.ClearFifosEcho := by
  refine ⟨fun s tx rx start layout reliable some_poll settled clrTx clrRx => ?_,
    fun s tx rx start layout reliable some_poll flight count clrTx clrRx => ?_⟩
  · obtain ⟨s1, m, drawn, first, run⟩ := clear_runs start layout reliable tx rx
    rw [pipe_fromIdle settled clrTx clrRx] at run
    obtain ⟨inputs, ended⟩ := clear_completes (tx := tx) (rx := rx) layout reliable
      (pcmClock_twice s _ (tx = true) (rx = true) (!s.pipe.syncR) s.pipe.syncR s.pipe.slotPhase drawn)
      (Bool.not_ne_self _) rfl some_poll m
    exact ⟨s1, _, inputs, first, run, rfl, rfl, rfl, by simp only [clrTx, clrRx]; exact ended⟩
  · intro clearsTx clearsRx
    obtain ⟨s1, m, drawn, first, run⟩ := clear_runs start layout reliable tx rx
    by_cases none_named : NamesNone s.params tx rx
    · rw [pipe_inFlight_none flight clrTx clrRx none_named] at run
      obtain ⟨inputs, ended⟩ := clear_completes (tx := tx) (rx := rx) layout reliable
        (pcmClock_once s _ clearsTx clearsRx s.pipe.syncW s.pipe.syncR s.pipe.slotPhase drawn count) flight rfl some_poll m
      refine ⟨s1, _, inputs, first, run, rfl, ?_⟩
      rw [if_pos (show tx = false ∧ rx = false ∧ s.params.updateAlwaysWrites = false from none_named)]
      exact ⟨rfl, ended⟩
    · rw [pipe_inFlight_some flight clrTx clrRx none_named] at run
      obtain ⟨inputs, ended⟩ := clear_completes (tx := tx) (rx := rx) layout reliable
        (pcmClock_twice s _ clearsTx clearsRx s.pipe.syncW s.pipe.syncR s.pipe.slotPhase drawn) flight rfl some_poll m
      refine ⟨s1, _, inputs, first, run, rfl, ?_⟩
      rw [if_neg (show ¬(tx = false ∧ rx = false ∧ s.params.updateAlwaysWrites = false) from none_named)]
      exact ⟨rfl, ended⟩

end Sys2Proof.Machine
end

section
/-! SUPPORT. The external calls on DMA channels in a command's run: what each leaves, by the answer it is given (R11, R79, R290). -/

namespace Sys2Proof.Machine

/-! ## A call and its answer -/

/-- `v` with an external call made and answered: `e` is recorded, and `as` are the answers left. -/
def State.called (v : State) (e : Event) (as : List Bool) : State :=
  { v with traces := { v.traces with events := v.traces.events ++ [e] }, inputs := { v.inputs with answers := as } }

/-- The same, with channel `d` replaced. -/
def State.calledOn (v : State) (e : Event) (as : List Bool) (d : Dir) (c : Channel) : State := (v.called e as).setChan d c

@[simp] theorem State.called_chan (v : State) (e : Event) (as : List Bool) (d : Dir) : (v.called e as).chan d = v.chan d :=
  State.chan_congr rfl rfl d

section
variable (v : State) (e : Event) (as : List Bool) (d : Dir) (c : Channel)

@[simp] theorem State.calledOn_ctx : (v.calledOn e as d c).ctx = v.ctx := by rw [calledOn, setChan_ctx]; rfl
@[simp] theorem State.calledOn_ctrl : (v.calledOn e as d c).ctrl = v.ctrl := by rw [calledOn, setChan_ctrl]; rfl
@[simp] theorem State.calledOn_events : (v.calledOn e as d c).traces.events = v.traces.events ++ [e] := by
  rw [calledOn, setChan_traces]; rfl
@[simp] theorem State.calledOn_answers : (v.calledOn e as d c).inputs.answers = as := by rw [calledOn, setChan_inputs]; rfl
@[simp] theorem State.calledOn_chan : (v.calledOn e as d c).chan d = c := State.setChan_chan _ d c
theorem State.calledOn_chan_ne {f : Dir} (other : f ≠ d) : (v.calledOn e as d c).chan f = v.chan f := by
  rw [calledOn, setChan_chan_ne _ c other, called_chan]

end

@[simp] theorem State.paused_chan (v : State) (m : Nat) (waiting : List Micro) (d : Dir) : (v.paused m waiting).chan d = v.chan d :=
  State.setCtrl_chan _ _ d

theorem State.paused_setChan (v : State) (m : Nat) (waiting : List Micro) (d : Dir) (c : Channel) :
    (v.paused m waiting).setChan d c = (v.setChan d c).paused m waiting := by cases d <;> rfl

theorem State.paused_calledOn (v : State) (m : Nat) (waiting : List Micro) (e : Event) (as : List Bool) (d : Dir) (c : Channel) :
    ((v.paused m waiting).called e as).setChan d c = (v.calledOn e as d c).paused m waiting :=
  State.paused_setChan (v.called e as) m waiting d c

theorem State.calledOn_paused_self (s : State) (e : Event) (as : List Bool) (d : Dir) (c : Channel) :
    (s.calledOn e as d c).paused s.ctrl.m s.ctrl.todo = s.calledOn e as d c := by cases d <;> rfl

section
variable {v : State} {ok : Bool} {as : List Bool} (answers : v.inputs.answers = ok :: as) (m : Nat) (waiting : List Micro)
include answers

theorem answerOf_listed : answerOf (v.paused m waiting).inputs = (ok, { v.inputs with answers := as }) := by
  rw [answerOf, show (v.paused m waiting).inputs.answers = ok :: as from answers]; rfl

theorem logEvent_afterAnswer (e : Event) : logEvent e (afterAnswer (v.paused m waiting)) = (v.paused m waiting).called e as := by
  rw [afterAnswer, answerOf_listed answers]; rfl

end

/-! ## Accepted calls -/

section
variable {v : State} {as : List Bool} (answers : v.inputs.answers = true :: as) (d : Dir) (m : Nat) (waiting : List Micro)
include answers

theorem access_slaveConfig_accepted :
    access (.slaveConfig d) (v.paused m waiting) =
      .done ((v.calledOn (.slaveConfig d (slaveCfgOf v.params d) true) as d
        { v.chan d with slave := some (slaveCfgOf v.params d) }).paused m waiting) [] := by
  simp only [access, answerOf_listed answers, logEvent_afterAnswer answers, State.called_chan, State.paused_chan,
    State.paused_calledOn, if_true]
  rfl

theorem access_prepCyclic_accepted :
    access (.prepCyclic d) (v.paused m waiting) =
      .done ((v.calledOn (.prepCyclic d (descOf v.params v.ctx.geom d) true) as d
        (prepChannel (v.chan d) (descOf v.params v.ctx.geom d))).paused m waiting) [] := by
  simp only [access, answerOf_listed answers, logEvent_afterAnswer answers, State.called_chan, State.paused_chan,
    State.paused_calledOn, if_true]
  rfl

theorem access_submit_accepted (unwind : Bool) :
    access (.submit d unwind) (v.paused m waiting) =
      .done ((v.calledOn (.submit d true) as d (submitChannel (v.chan d))).paused m waiting) [] := by
  simp only [access, answerOf_listed answers, logEvent_afterAnswer answers, State.called_chan, State.paused_chan,
    State.paused_calledOn, if_true]

theorem access_terminate_accepted :
    access (.terminate d) (v.paused m waiting) =
      .done ((v.calledOn (.terminateAsync d true) as d (terminateChannel (v.chan d))).paused m waiting) [.synchronize d] := by
  simp only [access, answerOf_listed answers, logEvent_afterAnswer answers, State.called_chan, State.paused_chan,
    State.paused_calledOn, if_true]

end

/-! ## Refused calls -/

/-- `v` with channel `d`'s termination refused: the first failure is recorded (R295, R296). -/
def State.terminateRefused (v : State) (d : Dir) (as : List Bool) : State :=
  (v.called (.terminateAsync d false) as).setCtrl
    { v.ctrl with first := if v.ctrl.first = .ok then .terminate else v.ctrl.first }

section
variable {v : State} {as : List Bool} (answers : v.inputs.answers = false :: as) (d : Dir) (m : Nat) (waiting : List Micro)
include answers

theorem access_slaveConfig_refused :
    access (.slaveConfig d) (v.paused m waiting) =
      .replace ((v.called (.slaveConfig d (slaveCfgOf v.params d) false) as).paused m waiting) (prepareFailed d .config v) := by
  simp only [access, answerOf_listed answers, logEvent_afterAnswer answers]
  rfl

theorem access_prepCyclic_refused :
    access (.prepCyclic d) (v.paused m waiting) =
      .replace ((v.called (.prepCyclic d (descOf v.params v.ctx.geom d) false) as).paused m waiting)
        (prepareFailed d .descriptor v) := by
  simp only [access, answerOf_listed answers, logEvent_afterAnswer answers]
  rfl

theorem access_submit_refused (unwind : Bool) :
    access (.submit d unwind) (v.paused m waiting) =
      .replace ((v.called (.submit d false) as).paused m waiting) (submitFailed unwind) := by
  simp only [access, answerOf_listed answers, logEvent_afterAnswer answers]
  rfl

theorem access_terminate_refused :
    access (.terminate d) (v.paused m waiting) = .done ((v.terminateRefused d as).paused m waiting) [] := by
  simp only [access, answerOf_listed answers, logEvent_afterAnswer answers]
  rfl

end

/-! ## Calls without an answer -/

/-- `v` with the call `e` recorded and channel `d` replaced: no answer is taken. -/
def State.notedOn (v : State) (e : Event) (d : Dir) (c : Channel) : State := (logEvent e v).setChan d c

theorem State.paused_notedOn (v : State) (m : Nat) (waiting : List Micro) (e : Event) (d : Dir) (c : Channel) :
    (logEvent e (v.paused m waiting)).setChan d c = (v.notedOn e d c).paused m waiting :=
  State.paused_setChan (logEvent e v) m waiting d c

theorem State.notedOn_paused_self (s : State) (e : Event) (d : Dir) (c : Channel) :
    (s.notedOn e d c).paused s.ctrl.m s.ctrl.todo = s.notedOn e d c := by cases d <;> rfl

theorem access_issue (v : State) (d : Dir) (m : Nat) (waiting : List Micro) :
    access (.issue d) (v.paused m waiting) =
      .done ((v.notedOn (.issuePending d) d (issueChannel (v.chan d))).paused m waiting) [] := by
  simp only [access, logEvent_chan, State.paused_chan, State.paused_notedOn]

/-- `Ext.Synchronize` returns (R290). -/
theorem access_synchronize {v : State} {d : Dir} (quiet : quiesced (v.chan d) = true) (m : Nat) (waiting : List Micro) :
    access (.synchronize d) (v.paused m waiting) =
      .done ((v.notedOn (.synchronize d) d (syncChannel (v.chan d))).paused m waiting) [] := by
  simp only [access, logEvent_chan, State.paused_chan, State.paused_notedOn, quiet, if_true]

/-- `Ext.Synchronize` does not return yet (R290, R417). -/
theorem access_synchronize_holds {s : State} {d : Dir} (busy : quiesced (s.chan d) = false) : access (.synchronize d) s = .hold := by
  simp only [access, busy, Bool.false_eq_true, if_false]

/-- The command waits at a call that does not return yet. -/
theorem microStep_holds {s : State} {d : Dir} (busy : quiesced (s.chan d) = false) (n : Nat) (rest : List Micro) :
    microStep n (.synchronize d :: rest) s = .next s := by
  rw [microStep_eq (runQuiet_access rfl n rest s), access_synchronize_holds busy]

/-! ## Channels -/

theorem quiesced_iff {c : Channel} : quiesced c = true ↔ c.phase = .stopped ∨ c.phase = .idle := by simp [quiesced]

theorem submitChannel_prepared {c : Channel} (prepared : c.phase = .prepared) : submitChannel c = { c with phase := .submitted } :=
  if_pos prepared

theorem issueChannel_submitted {c : Channel} (submitted : c.phase = .submitted) : issueChannel c = { c with phase := .running } :=
  if_pos submitted

/-- A channel that is prepared, submitted or running stops. -/
theorem terminateChannel_active {c : Channel} (active : c.phase = .prepared ∨ c.phase = .submitted ∨ c.phase = .running) :
    terminateChannel c = { c with phase := .stopping, pending := 0 } := if_pos active

/-- Any other keeps its phase. -/
theorem terminateChannel_inactive {c : Channel} (inactive : c.phase = .idle ∨ c.phase = .stopping ∨ c.phase = .stopped) :
    terminateChannel c = { c with pending := 0 } :=
  if_neg (by rcases inactive with e | e | e <;> simp [e])

theorem terminateChannel_pending (c : Channel) : (terminateChannel c).pending = 0 := by
  unfold terminateChannel; split <;> rfl

theorem syncChannel_terminateChannel (c : Channel) : syncChannel (terminateChannel c) = syncChannel c := by
  unfold terminateChannel; split <;> rfl

/-- A termination neither makes a channel quiesce nor starts it again. -/
theorem quiesced_terminateChannel (c : Channel) : quiesced (terminateChannel c) = quiesced c := by
  unfold terminateChannel
  split
  · next active => rcases active with e | e | e <;> (rw [quiesced, quiesced, e]; rfl)
  · rfl

/-- After an accepted termination the channel is stopping, or stopped or IDLE. -/
theorem terminateChannel_stops (c : Channel) : (terminateChannel c).phase = .stopping ∨ quiesced (terminateChannel c) = true := by
  rw [quiesced_terminateChannel, quiesced_iff]
  unfold terminateChannel
  split
  · exact .inl rfl
  · next inactive => cases phase : c.phase <;> simp_all

end Sys2Proof.Machine
end

section
/-! SUPPORT. TEARDOWN: one micro-operation of it inside any command, and DMA_TERMINATE's two, run to their ends (R295 to R297): O34, O35. -/

namespace Sys2Proof.Machine

/-! ## One micro-operation (R290, R295, R417) -/

section
variable {i : Instr} {s : State} {d : Dir} {as : List Bool} {rest : List Micro}

theorem NextItems.terminate_accepted (here : NextItems i (.terminate d :: rest) s) (answers : s.inputs.answers = true :: as) :
    GoesOn i (.synchronize d :: rest) s (s.calledOn (.terminateAsync d true) as d (terminateChannel (s.chan d))) :=
  here.done (runQuiet_access rfl _ _ _) <| State.calledOn_paused_self s _ as d _ ▸ access_terminate_accepted answers d s.ctrl.m s.ctrl.todo

theorem NextItems.terminate_refused (here : NextItems i (.terminate d :: rest) s) (answers : s.inputs.answers = false :: as) :
    GoesOn i rest s (s.terminateRefused d as) :=
  here.done (runQuiet_access rfl _ _ _) (access_terminate_refused answers d s.ctrl.m s.ctrl.todo)

theorem NextItems.synchronize (here : NextItems i (.synchronize d :: rest) s) (quiet : quiesced (s.chan d) = true) :
    GoesOn i rest s (s.notedOn (.synchronize d) d (syncChannel (s.chan d))) := by
  have answers := access_synchronize quiet s.ctrl.m s.ctrl.todo
  rw [State.notedOn_paused_self] at answers
  exact here.done (runQuiet_access rfl _ _ _) answers

end

/-! What a command does after a termination or a wait: it waits for another termination, or returns a code or its first failure, EXIT
after the change to its last state (R291, R296, R332, R342). -/

section
variable {i : Instr} {s t : State} {rest : List Micro}

theorem GoesOn.terminates {e : Dir} (goes : GoesOn i (.terminate e :: rest) s t) :
    exec i s = .next { t with ctrl := ctrlOn t.ctrl (.terminate e :: rest) } :=
  Eq.trans goes (goOn_access rfl _ _ _)

theorem GoesOn.returns {c : Code} (goes : GoesOn i (.ret c :: rest) s t) :
    exec i s = .next { t with ctx := { t.ctx with result := c }, ctrl := ctrlPast t.ctrl (operandWords i) } :=
  Eq.trans goes (goOn_ret _ _ _ _)

theorem GoesOn.returnsFirst (goes : GoesOn i (.retFirst :: rest) s t) :
    exec i s = .next { t with ctx := { t.ctx with result := t.ctrl.first }, ctrl := ctrlPast t.ctrl (operandWords i) } :=
  Eq.trans goes (goOn_retFirst _ _ _)

theorem GoesOn.exits {x : CoordState} (goes : GoesOn i (.setCoord x :: .retFirst :: rest) s t) :
    exec i s =
      .next { t with ctx := { t.ctx with state := x, result := t.ctrl.first }, ctrl := ctrlPast t.ctrl (operandWords i) } :=
  Eq.trans goes (goOn_ended rfl)

end

/-- The wait's effect on the two channels, as the statement writes it. -/
theorem notedOn_synchronize (s : State) (d : Dir) :
    s.notedOn (.synchronize d) d (syncChannel (s.chan d)) =
      { s with
        dmaRx := if d = .rx then syncChannel (s.chan d) else s.dmaRx
        dmaTx := if d = .tx then syncChannel (s.chan d) else s.dmaTx
        traces := { s.traces with events := s.traces.events ++ [.synchronize d] } } := by
  cases d <;> rfl

/-- Settles O34: the micro-operation of each case, then what a command of the spec has after it. -/
theorem teardown : Obligations.Teardown := by
  intro s i d mi rest ctrl running
  have next {todo : List Micro} (h : s.ctrl.todo = todo) : NextItems i todo s := h ▸ exec_goesOn ctrl running
  refine ⟨fun as todo answers => ?_, fun as answers => ?_, fun todo busy => ?_, fun stopped => ?_⟩
  · have goes := (next todo).terminate_accepted answers
    refine ⟨_, Eq.trans goes (goOn_access rfl _ _ _), ?_, ?_, fun active => ?_, fun inactive => ?_, fun e other => ?_, ?_, ?_⟩
    · simp
    · simp [terminateChannel_pending]
    · simp [terminateChannel_active (by simpa using active)]
    · simp [terminateChannel_inactive (by simpa using inactive)]
    · simp [State.calledOn_chan_ne _ _ _ _ _ other]
    · simp
    · simp
  · have goes {rest : List Micro} (todo : s.ctrl.todo = .terminate d :: rest) := (next todo).terminate_refused answers
    exact ⟨fun _ _ todo => (goes todo).terminates, fun _ _ todo => (goes todo).returns, fun _ todo => (goes todo).returnsFirst,
      fun _ _ todo => (goes todo).exits⟩
  · have waits : quiesced (s.chan d) = false := by simpa [quiesced] using busy
    exact Eq.trans (next todo) (microStep_holds waits _ _)
  · have goes {rest : List Micro} (todo : s.ctrl.todo = .synchronize d :: rest) :=
      (next todo).synchronize (quiesced_iff.mpr (by simpa using stopped))
    simp only [notedOn_synchronize] at goes
    exact ⟨fun _ _ todo => (goes todo).terminates, fun _ _ todo => (goes todo).returns, fun _ todo => (goes todo).returnsFirst,
      fun _ _ todo => (goes todo).exits⟩

end Sys2Proof.Machine
end

section
/-! SUPPORT. A channel's TEARDOWN in a command's run, the channel it waits for quiescing (R290, R295, R383), and DMA_TERMINATE: O35. -/

namespace Sys2Proof.Machine

/-! ## Runs (R12, R47) -/

/-- The command returns (R12, R47). -/
theorem Done.returns {i : Instr} {s v : State} {n : Nat} {c : Code} {rest : List Micro} (left : Done i s n (.ret c :: rest) v) :
    execFor i n s = .next (endCommand (operandWords i) c v) := left.ends fun _ _ => rfl

theorem Done.returnsFirst {i : Instr} {s v : State} {n : Nat} {rest : List Micro} (left : Done i s n (.retFirst :: rest) v) :
    execFor i n s = .next (endCommand (operandWords i) v.ctrl.first v) := left.ends fun _ _ => rfl

theorem execQuiesced_add {i : Instr} {n : Nat} {s t : State} (h : execQuiesced i n s = .next t) (m : Nat) :
    execQuiesced i (n + m) s = execQuiesced i m t := by
  induction n generalizing s with
  | zero => cases h; rw [Nat.zero_add]
  | succ n ih =>
    rw [Nat.add_right_comm]
    cases e : exec i s with
    | next u => rw [execQuiesced_succ e] at h ⊢; exact ih h
    | fault f => simp only [execQuiesced, e] at h; cases h
    | refused r => simp only [execQuiesced, e] at h; cases h

/-- A run of one micro-operation and more: its first one, then the others. -/
theorem execQuiesced_first {i : Instr} {n : Nat} {s t : State} (run : execQuiesced i (n + 1) s = .next t) :
    ∃ s1, exec i s = .next s1 ∧ execQuiesced i n (quiesceWaited s1) = .next t := by
  cases first : exec i s with
  | next s1 => exact ⟨s1, rfl, by rwa [execQuiesced_succ first] at run⟩
  | fault f => simp only [execQuiesced, first] at run; cases run
  | refused r => simp only [execQuiesced, first] at run; cases run

/-- A command goes on from what its beginning leaves as it would begin there, where its beginning changes nothing more. -/
theorem exec_begun {i : Instr} {s t : State} {todo : List Micro} (ctrl : cmdAgent i = .ctrl) (start : AtStart s) (begun : AtStart t)
    (begins : commandBegin i s = .run t todo) (again : commandBegin i t = .run t todo) : exec i s = exec i t := by
  rw [exec_eq_runCommand ctrl, exec_eq_runCommand ctrl, runCommand_begin start begins, runCommand_begin begun again]

/-! ## The wait (R290, R383) -/

/-- The command waits for a channel that is stopping, stopped or IDLE: once it quiesces, if it has to, the wait is over. -/
theorem done_quiesceWaited {i : Instr} {v : State} {d : Dir} {rest : List Micro} (ctrl : cmdAgent i = .ctrl)
    (stops : (v.chan d).phase = .stopping ∨ quiesced (v.chan d) = true) (m : Nat) :
    Done i (quiesceWaited (v.paused (m + 1) (.synchronize d :: rest))) 1 rest
      (v.notedOn (.synchronize d) d (syncChannel (v.chan d))) := by
  by_cases stopping : (v.chan d).phase = .stopping
  · have quiet : quiesced ((quiesceStep d v).chan d) = true := by simp [quiesceStep, quiesced]
    have stopped : quiesceStep d (v.paused (m + 1) (.synchronize d :: rest)) =
        (quiesceStep d v).paused (m + 1) (.synchronize d :: rest) := by cases d <;> rfl
    have same : (quiesceStep d v).notedOn (.synchronize d) d (syncChannel ((quiesceStep d v).chan d)) =
        v.notedOn (.synchronize d) d (syncChannel (v.chan d)) := by cases d <;> rfl
    rw [quiesceWaited_stopping rfl ((congrArg Channel.phase (State.paused_chan ..)).trans stopping), stopped, ← same]
    exact (Reached.resumed ctrl _ m _).done rfl (access_synchronize quiet)
  · rw [quiesceWaited_other rfl (by rwa [State.paused_chan])]
    exact (Reached.resumed ctrl v m _).done rfl (access_synchronize (stops.resolve_left stopping))

/-- A channel that has not quiesced holds the command (R417). -/
theorem exec_waiting_holds {i : Instr} {v : State} {d : Dir} {rest : List Micro} (ctrl : cmdAgent i = .ctrl)
    (busy : quiesced (v.chan d) = false) (m : Nat) :
    exec i (v.paused (m + 1) (.synchronize d :: rest)) = .next (v.paused (m + 1) (.synchronize d :: rest)) :=
  (exec_goesOn ctrl (Nat.succ_ne_zero m)).trans (microStep_holds (by rwa [State.paused_chan]) _ _)

/-! ## One channel (R295, R297) -/

/-- `v` after the teardown of channel `d`, its request answered `ok`. -/
def State.tornDown (v : State) (d : Dir) (as : List Bool) : Bool → State
  | true => (v.called (.terminateAsync d true) as).notedOn (.synchronize d) d (syncChannel (v.chan d))
  | false => v.terminateRefused d as

/-- The request accepted and the wait over. -/
theorem notedOn_terminated (v : State) (d : Dir) (as : List Bool) :
    let t := v.calledOn (.terminateAsync d true) as d (terminateChannel (v.chan d))
    t.notedOn (.synchronize d) d (syncChannel (t.chan d)) = v.tornDown d as true := by
  intro t
  rw [State.calledOn_chan, syncChannel_terminateChannel]
  cases d <;> rfl

section
variable {i : Instr} {s v : State} {n : Nat} {d : Dir} {as : List Bool} {rest : List Micro}

/-- The request accepted, the command waits; once the channel quiesces, if it has to, it is torn down. -/
theorem Reached.terminate_waits (here : Reached i s n (.terminate d :: rest) v) (ctrl : cmdAgent i = .ctrl)
    (answers : v.inputs.answers = true :: as) :
    ∃ m, let u := (v.calledOn (.terminateAsync d true) as d (terminateChannel (v.chan d))).paused (m + 1) (.synchronize d :: rest)
      execFor i (n + 1) s = .next u ∧ (quiesced (v.chan d) = false → exec i u = .next u ∧ quiesceWaited u = quiesceStep d u) ∧
        Done i (quiesceWaited u) 1 rest (v.tornDown d as true) := by
  have stops := terminateChannel_stops (v.chan d)
  obtain ⟨m, run⟩ := (here.done rfl (access_terminate_accepted answers d)).waits rfl
  refine ⟨m, run, fun busy => ⟨exec_waiting_holds ctrl ?_ m, quiesceWaited_stopping rfl ?_⟩, ?_⟩
  · rwa [State.calledOn_chan, quiesced_terminateChannel]
  · simpa [quiesced_terminateChannel, busy] using stops
  · rw [← notedOn_terminated]
    exact done_quiesceWaited ctrl (by simpa using stops) m

/-- A channel that is stopped or IDLE already is torn down in two micro-operations. -/
theorem Reached.teardown_quiet (here : Reached i s n (.terminate d :: rest) v) (ctrl : cmdAgent i = .ctrl)
    (answers : v.inputs.answers = true :: as) (quiet : quiesced (v.chan d) = true) :
    Done i s (n + 2) rest (v.tornDown d as true) := by
  rw [← notedOn_terminated]
  exact ((here.done rfl (access_terminate_accepted answers d)).goes ctrl rfl).done rfl
    (access_synchronize (by rwa [State.calledOn_chan, quiesced_terminateChannel]))

/-- The teardown of one channel, which quiesces if it is waited for, up to what the command does next. -/
theorem Reached.teardown {ok : Bool} (here : Reached i s 0 (.terminate d :: rest) v) (ctrl : cmdAgent i = .ctrl)
    (answers : v.inputs.answers = ok :: as) :
    ∃ m waiting, ∀ t, goOn (operandWords i) rest ((v.tornDown d as ok).paused m waiting) = .next t →
      execQuiesced i (1 + ok.toNat) s = .next (quiesceWaited t) := by
  cases ok with
  | false =>
    obtain ⟨m, waiting, run⟩ := here.done rfl (access_terminate_refused answers d)
    exact ⟨m, waiting, fun t next => execQuiesced_succ ((execFor_one i s).symm.trans (run.trans next)) 0⟩
  | true =>
    obtain ⟨_, run, -, m, waiting, last⟩ := here.terminate_waits ctrl answers
    exact ⟨m, waiting, fun t next => (execQuiesced_succ ((execFor_one i s).symm.trans run) 1).trans
      (execQuiesced_succ ((execFor_one i _).symm.trans (last.trans next)) 0)⟩

end

/-! ## DMA_TERMINATE (R296) -/

theorem reached_dmaTerminate {s : State} (start : AtStart s) :
    Reached .dmaTerminate (clearFirst s) 0 [.terminate .tx, .terminate .rx, .retFirst] (clearFirst s) :=
  .start rfl start rfl

/-- Both teardowns, TX then RX, and the result (R296, R297). -/
theorem dmaTerminate_completes {s : State} {a b : Bool} {as : List Bool} (start : AtStart s)
    (answers : s.inputs.answers = a :: b :: as) :
    execQuiesced .dmaTerminate (1 + a.toNat + (1 + b.toNat)) (clearFirst s) =
      .next (endCommand 0 (if a && b then .ok else .terminate) (((clearFirst s).tornDown .tx (b :: as) a).tornDown .rx as b)) := by
  obtain ⟨m, waiting, tx⟩ := (reached_dmaTerminate start).teardown rfl answers
  have left : (((clearFirst s).tornDown .tx (b :: as) a)).inputs.answers = b :: as := by cases a <;> rfl
  obtain ⟨m', waiting', rx⟩ := (Reached.resumed (i := .dmaTerminate) rfl ((clearFirst s).tornDown .tx (b :: as) a) _ _).teardown
    rfl left
  rw [execQuiesced_add (tx _ (goOn_access rfl _ _ _))]
  refine (rx _ (goOn_retFirst _ _ _)).trans ?_
  cases a <;> cases b <;> rfl

/-- The state DMA_TERMINATE ends in, by the two answers (R296, R297). -/
theorem dmaTerminate_final (s : State) (c : Code) (a b : Bool) (rest as : List Bool) :
    endCommand 0 c (((clearFirst s).tornDown .tx rest a).tornDown .rx as b) =
      { s with
        dmaRx := if b then syncChannel s.dmaRx else s.dmaRx
        dmaTx := if a then syncChannel s.dmaTx else s.dmaTx
        ctx := { s.ctx with result := c }
        ctrl := ctrlPast s.ctrl 0
        traces := { s.traces with
          events := s.traces.events ++ [.terminateAsync .tx a] ++ (if a then [.synchronize .tx] else []) ++
            [.terminateAsync .rx b] ++ (if b then [.synchronize .rx] else []) }
        inputs := { s.inputs with answers := as } } := by
  cases a <;> cases b <;>
    simp [endCommand, ctrlPast, State.tornDown, State.terminateRefused, State.notedOn, State.called, clearFirst, logEvent,
      State.setCtrl, State.setCtx, State.setDmaRx, State.setDmaTx, State.setTraces]

/-- `Ext.Synchronize` on an IDLE channel leaves its phase (R290). -/
theorem syncChannel_idle {c : Channel} (idle : c.phase = .idle) : syncChannel c = { c with desc := none, pos := 0#32, pending := 0 } := by
  simp only [syncChannel, idle]

/-- Settles O35: TX's teardown, then RX's, each by its answer; where a request is accepted the wait is over once the channel quiesces. -/
theorem dmaTerminate : Obligations.DmaTerminate := by
  intro s as start
  have here := reached_dmaTerminate start
  have begun : exec .dmaTerminate s = exec .dmaTerminate (clearFirst s) := exec_begun rfl start start rfl rfl
  rw [begun]
  refine ⟨fun txIdle rxIdle answers => ?_, fun answers => ?_, fun running answers => ?_, fun a b answers => ?_⟩
  · have tx := (here.teardown_quiet rfl answers (quiesced_iff.mpr (.inr txIdle))).goes rfl rfl
    have rx := tx.teardown_quiet rfl rfl (quiesced_iff.mpr (.inr rxIdle))
    obtain ⟨s1, first, others⟩ := execFor_first rx.returnsFirst
    refine ⟨s1, _, first, others, (dmaTerminate_final s .ok true true _ as).trans ?_⟩
    simp [syncChannel_idle, txIdle, rxIdle]
  · have tx := (here.done rfl (access_terminate_refused (v := clearFirst s) answers .tx)).goes rfl rfl
    have rx := tx.done rfl (access_terminate_refused rfl .rx)
    obtain ⟨s1, first, last⟩ := execFor_first rx.returnsFirst
    refine ⟨s1, first, (execFor_one _ _).symm.trans (last.trans (congrArg _ ?_))⟩
    refine (dmaTerminate_final s .terminate false false _ as).trans ?_
    simp
  · have busy : quiesced s.dmaTx = false := by rw [quiesced, running]; rfl
    obtain ⟨_, run, waits, waited⟩ := here.terminate_waits rfl answers
    obtain ⟨holds, quiesces⟩ := waits busy
    obtain ⟨_, final⟩ := waited.waits rfl
    rw [execFor_one] at run final
    rw [quiesces] at final
    exact ⟨_, run, terminateChannel_active (.inr (.inr running)), holds, _, final, rfl, rfl⟩
  · have run := dmaTerminate_completes start answers
    rw [show 1 + a.toNat + (1 + b.toNat) = 1 + a.toNat + b.toNat + 1 by omega] at run
    obtain ⟨s1, first, others⟩ := execQuiesced_first run
    exact ⟨s1, first, others.trans (congrArg _ (dmaTerminate_final s _ a b _ as))⟩

end Sys2Proof.Machine
end

section
/-! SUPPORT. DMA_PREPARE and its failures (R291 to R293, R333, R339): O31 and O32. -/

namespace Sys2Proof.Machine

/-! ## The operands of its two calls (R292, R293) -/

theorem slaveCfgOf_default {s : State} (layout : DefaultLayout s) (d : Dir) :
    slaveCfgOf s.params d = ⟨s.params.busBase + 4#32, 4, s.params.maxBurst, d⟩ := by
  rw [slaveCfgOf, fifoBusAddr, show s.params.regmap = bcm2835 from layout]; rfl

/-- `v` with channel `d` configured, `as` the answers left (R291, R292). -/
def State.slaved (v : State) (d : Dir) (as : List Bool) : State :=
  v.calledOn (.slaveConfig d (slaveCfgOf v.params d) true) as d { v.chan d with slave := some (slaveCfgOf v.params d) }

/-- `v` with channel `d` prepared (R291, R293). -/
def State.prepared (v : State) (d : Dir) (as : List Bool) : State :=
  v.calledOn (.prepCyclic d (descOf v.params v.ctx.geom d) true) as d (prepChannel (v.chan d) (descOf v.params v.ctx.geom d))

/-! ## What a failure leads to (R291, R333) -/

theorem prepareFailed_returns {d : Dir} {v : State} (alone : d = .rx ∨ v.dmaRx.phase = .idle) (e : Code) :
    prepareFailed d e v = [.ret e] :=
  if_neg fun ⟨tx, busy⟩ => alone.elim (fun rx => by cases tx; cases rx) busy

theorem prepareFailed_tearsDown {v : State} (busy : v.dmaRx.phase ≠ .idle) (e : Code) :
    prepareFailed .tx e v = [.terminate .rx, .ret e] := if_pos ⟨rfl, busy⟩

/-! ## Its run (R291) -/

section
variable {i : Instr} {s v : State} {n : Nat} {d : Dir} {as : List Bool} {rest : List Micro}

/-- The guard is passed. -/
theorem Reached.guardPrepare (here : Reached i s n (.guardPrepare d :: rest) v) (idle : (v.chan d).phase = .idle)
    (valid : v.ctx.geomValid = true) : Reached i s n rest v :=
  here.quiet fun m waiting => if_pos (show (((v.paused m waiting).chan d).phase == .idle && v.ctx.geomValid) = true by
    simp [idle, valid])

/-- The slave configuration is accepted. -/
theorem Reached.slaved (here : Reached i s n (.slaveConfig d :: rest) v) (ctrl : cmdAgent i = .ctrl) (acc : hasAccess rest = true)
    (answers : v.inputs.answers = true :: as) : Reached i s (n + 1) rest (v.slaved d as) :=
  (here.done rfl (access_slaveConfig_accepted answers d)).goes ctrl acc

/-- The descriptor is accepted. -/
theorem Reached.prepared (here : Reached i s n (.prepCyclic d :: rest) v) (answers : v.inputs.answers = true :: as) :
    Done i s (n + 1) rest (v.prepared d as) :=
  here.done rfl (access_prepCyclic_accepted answers d)

/-- The slave configuration is refused. -/
theorem Reached.config_refused (here : Reached i s n (.slaveConfig d :: rest) v) (answers : v.inputs.answers = false :: as) :
    Done i s (n + 1) (prepareFailed d .config v) (v.called (.slaveConfig d (slaveCfgOf v.params d) false) as) :=
  here.replaced rfl (access_slaveConfig_refused answers d)

/-- The descriptor is refused. -/
theorem Reached.descriptor_refused (here : Reached i s n (.prepCyclic d :: rest) v) (answers : v.inputs.answers = false :: as) :
    Done i s (n + 1) (prepareFailed d .descriptor v) (v.called (.prepCyclic d (descOf v.params v.ctx.geom d) false) as) :=
  here.replaced rfl (access_prepCyclic_refused answers d)

end

/-- DMA_PREPARE's items, its guard passed. -/
theorem reached_dmaPrepare {s : State} {d : Dir} (start : AtStart s) (idle : (s.chan d).phase = .idle)
    (valid : s.ctx.geomValid = true) : Reached (.dmaPrepare d) s 0 [.slaveConfig d, .prepCyclic d, .ret .ok] s :=
  (Reached.start (todo := prepareSeq d ++ [.ret .ok]) rfl start rfl).guardPrepare idle valid

/-- Settles O31: the two calls accepted, one micro-operation each. -/
theorem dmaPrepare : Obligations.DmaPrepare := by
  intro s d as start layout idle valid answers cfg desc
  have config : slaveCfgOf s.params d = cfg := slaveCfgOf_default layout d
  have slaved := (reached_dmaPrepare start idle valid).slaved rfl rfl answers
  have prepared := slaved.prepared (State.calledOn_answers ..)
  obtain ⟨s1, first, last⟩ := execFor_first prepared.returns
  refine ⟨s1, _, first, (execFor_one _ _).symm.trans last, ?_, ?_, ?_⟩
  · rw [← config]; cases d <;> rfl
  · intro e other
    rw [endCommand_chan, State.prepared, State.calledOn_chan_ne _ _ _ _ _ other, State.slaved,
      State.calledOn_chan_ne _ _ _ _ _ other]
  · rw [List.append_cons, ← config]; cases d <;> rfl

/-! ## A failed playback preparation (R291, R295, R333) -/

theorem terminateChannel_busy {c : Channel} (busy : c.phase ≠ .idle) :
    terminateChannel c = { c with phase := if c.phase = .stopped then .stopped else .stopping, pending := 0 } := by
  unfold terminateChannel
  split
  · next active => rw [if_neg (by rcases active with e | e | e <;> simp [e])]
  · next inactive => cases phase : c.phase <;> simp_all

/-- RX is torn down and the failure's own code returned, RX's termination accepted or not. -/
theorem Done.tearsDown {i : Instr} {s v : State} {n : Nat} {e : Code} {c : Bool} {as : List Bool}
    (left : Done i s n [.terminate .rx, .ret e] v) (ctrl : cmdAgent i = .ctrl) (answers : v.inputs.answers = c :: as)
    (busy : v.dmaRx.phase ≠ .idle) :
    ∃ u, execFor i (n + 1) s = .next u ∧
      (c = false → u = endCommand (operandWords i) e (v.terminateRefused .rx as)) ∧
      (c = true →
        u.dmaRx = { v.dmaRx with phase := if v.dmaRx.phase = .stopped then .stopped else .stopping, pending := 0 } ∧
          (v.dmaRx.phase ≠ .stopped → exec i u = .next u) ∧
          exec i (quiesceWaited u) = .next (endCommand (operandWords i) e (v.tornDown .rx as true))) := by
  have here := left.goes ctrl rfl
  cases c with
  | false =>
    exact ⟨_, (here.done rfl (access_terminate_refused answers .rx)).returns, fun _ => rfl, fun accepted => nomatch accepted⟩
  | true =>
    obtain ⟨m, run, waits, waited⟩ := here.terminate_waits ctrl answers
    refine ⟨_, run, fun refused => (nomatch refused), fun _ => ⟨terminateChannel_busy busy, fun running => ?_, ?_⟩⟩
    · exact (waits (by simp [quiesced, busy, running])).1
    · exact (execFor_one _ _).symm.trans waited.returns

/-- The refused playback preparation, RX to be torn down: `second` says which of the two calls failed. -/
theorem dmaPrepare_tx_refused {s : State} {second : Bool} {left : List Bool} (start : AtStart s) (idle : s.dmaTx.phase = .idle)
    (valid : s.ctx.geomValid = true) (busy : s.dmaRx.phase ≠ .idle)
    (answers : s.inputs.answers = (if second then [true, false] else [false]) ++ left) :
    Done (.dmaPrepare .tx) s (if second then 2 else 1) [.terminate .rx, .ret (if second then .descriptor else .config)]
      { s with
        dmaTx := if second then { s.dmaTx with slave := some (slaveCfgOf s.params .tx) } else s.dmaTx
        traces := { s.traces with
          events := s.traces.events ++
            if second then [.slaveConfig .tx (slaveCfgOf s.params .tx) true, .prepCyclic .tx (descOf s.params s.ctx.geom .tx) false]
            else [.slaveConfig .tx (slaveCfgOf s.params .tx) false] }
        inputs := { s.inputs with answers := left } } := by
  have here := reached_dmaPrepare (d := .tx) start idle valid
  cases second with
  | false =>
    rw [← prepareFailed_tearsDown busy]
    exact here.config_refused answers
  | true =>
    have refused := (here.slaved rfl rfl (as := false :: left) answers).descriptor_refused rfl
    rw [prepareFailed_tearsDown (v := s.slaved .tx (false :: left)) busy] at refused
    rw [if_pos rfl, if_pos rfl, if_pos rfl, if_pos rfl, List.append_cons]
    exact refused

/-- `s` with the geometry registers of an accepted pair (R332, R337). -/
def State.withGeometry (s : State) (pf cc : Word) : State :=
  s.setCtx { s.ctx with geom := geometryOf s.ctx.region.phys pf cc, geomValid := true }

/-- Settles O32: each refusal's items, which return the code, or tear RX down first. -/
theorem dmaPrepareFails : Obligations.DmaPrepareFails := by
  refine ⟨?_, ?_, ?_⟩
  · intro s d as start layout idle valid alone cfg desc
    have config : slaveCfgOf s.params d = cfg := slaveCfgOf_default layout d
    have here := reached_dmaPrepare start idle valid
    refine ⟨fun answers => ?_, fun answers => ?_⟩
    · have refused := here.config_refused answers
      rw [prepareFailed_returns alone, config] at refused
      exact (execFor_one _ _).symm.trans refused.returns
    · have refused := (here.slaved rfl rfl answers).descriptor_refused (State.calledOn_answers ..)
      rw [prepareFailed_returns (by cases d; exacts [.inl rfl, alone])] at refused
      obtain ⟨s1, first, last⟩ := execFor_first refused.returns
      refine ⟨s1, _, first, (execFor_one _ _).symm.trans last, ?_, fun e other => ?_, ?_⟩
      · rw [← config]; cases d <;> rfl
      · rw [endCommand_chan, State.called_chan, State.slaved, State.calledOn_chan_ne _ _ _ _ _ other]
      · rw [List.append_cons, ← config]; cases d <;> rfl
  · intro s second c as start layout idle valid busy answers cfg desc failed
    have config : slaveCfgOf s.params .tx = cfg := slaveCfgOf_default layout .tx
    have refused := dmaPrepare_tx_refused start idle valid busy answers
    rw [config] at refused
    obtain ⟨u, run, alone, waits⟩ := refused.tearsDown rfl rfl busy
    obtain ⟨s1, first, others⟩ := execFor_first run
    refine ⟨s1, u, first, others, alone, fun accepted => ?_⟩
    obtain ⟨stopping, holds, final⟩ := waits accepted
    refine ⟨stopping, holds, final.trans (congrArg _ ?_)⟩
    rw [List.append_cons _ _ [Event.synchronize .rx]]
    rfl
  · intro s pf cc as start unconfigured initDone fits idle answers
    have begins : commandBegin (.buffersSetup pf cc) s = .run (s.withGeometry pf cc) (buffersSeq cc s) :=
      (if_pos ⟨unconfigured, initDone⟩).trans (if_pos fits)
    have again : commandBegin (.buffersSetup pf cc) (s.withGeometry pf cc) = .run (s.withGeometry pf cc) (buffersSeq cc s) :=
      (if_pos ⟨unconfigured, initDone⟩).trans (if_pos fits)
    have here := Reached.guardPrepare (v := s.withGeometry pf cc) (d := .rx) (.start rfl start again) idle rfl
    have refused := (here.slaved rfl rfl answers).descriptor_refused rfl
    obtain ⟨s1, first, last⟩ := execFor_first refused.returns
    rw [exec_begun (t := s.withGeometry pf cc) rfl start start begins again]
    refine ⟨s1, _, first, (execFor_one _ _).symm.trans last, rfl, unconfigured, rfl, rfl, rfl, slaveCfgOf s.params .rx,
      descOf s.params (geometryOf s.ctx.region.phys pf cc) .rx, ?_⟩
    rw [List.append_cons]
    rfl

end Sys2Proof.Machine
end

section
/-! SUPPORT. DMA_SUBMIT and the completion callback (R294, R298, R320, R323): O33 and O36. -/

namespace Sys2Proof.Machine

/-! ## DMA_SUBMIT (R294) -/

/-- DMA_SUBMIT's items, its guard passed (R294). -/
theorem reached_dmaSubmit {s : State} (start : AtStart s) (rx : s.dmaRx.phase = .prepared) (tx : s.dmaTx.phase = .prepared) :
    Reached .dmaSubmit s 0 [.submit .rx false, .submit .tx false, .issue .rx, .issue .tx, .ret .ok] s := by
  have prepared : bothPrepared s = true := by simp [bothPrepared, rx, tx]
  have guarded := Reached.start (i := .dmaSubmit) (todo := submitSeq false ++ [.ret .ok]) rfl start rfl
  exact guarded.quiet fun m waiting => if_pos (c := bothPrepared (s.paused m waiting) = true) prepared

/-- Settles O33: the two submissions in order, then both transfers issued; a refused submission ends the command. -/
theorem dmaSubmit : Obligations.DmaSubmit := by
  intro s as start rxPrepared txPrepared
  have here := reached_dmaSubmit start rxPrepared txPrepared
  have rx := submitChannel_prepared rxPrepared
  have tx := submitChannel_prepared txPrepared
  have runs (c : Channel) : issueChannel { c with phase := .submitted } = { c with phase := .running } := issueChannel_submitted rfl
  refine ⟨fun answers => ?_, fun answers => ?_, fun answers => ?_⟩
  · have rxIn := (here.done rfl (access_submit_accepted answers .rx (unwind := false))).goes rfl rfl
    have txIn := (rxIn.done rfl (access_submit_accepted rfl .tx (unwind := false))).goes rfl rfl
    have rxRuns := (txIn.done rfl (access_issue _ .rx)).goes rfl rfl
    have ended := (rxRuns.done rfl (access_issue _ .tx)).returns
    obtain ⟨s1, first, others⟩ := execFor_first ended
    refine ⟨s1, first, others.trans (congrArg _ (?_ : endCommand 0 _ _ = _))⟩
    simp [endCommand, ctrlPast, State.calledOn, State.notedOn, State.called, logEvent, State.setCtrl, State.setCtx, State.setDmaRx,
      State.setDmaTx, State.setTraces, rx, tx, runs]
  · have ended := (here.replaced rfl (access_submit_refused answers .rx (unwind := false))).returns
    exact (execFor_one _ _).symm.trans ended
  · have rxIn := (here.done rfl (access_submit_accepted answers .rx (unwind := false))).goes rfl rfl
    have ended := (rxIn.replaced rfl (access_submit_refused rfl .tx (unwind := false))).returns
    obtain ⟨s1, first, last⟩ := execFor_first ended
    refine ⟨s1, first, (execFor_one _ _).symm.trans (last.trans (congrArg _ (?_ : endCommand 0 _ _ = _)))⟩
    simp [endCommand, ctrlPast, State.calledOn, State.called, State.setCtrl, State.setCtx, State.setDmaRx, rx]

/-! ## PERIOD_CALLBACK (R320, R323) -/

/-- Counting an error changes the block's registers and a channel (R323). -/
theorem inspectErr_frame (d : Dir) (s : State) :
    inspectErr d s = { s with ctx := (inspectErr d s).ctx, dmaRx := (inspectErr d s).dmaRx, dmaTx := (inspectErr d s).dmaTx } := by
  unfold inspectErr
  split
  · cases d <;> rfl
  · rfl

/-- Taking a completion changes the block's registers and the two channels (R320, R423). -/
theorem takeCompletion_frame (s : State) :
    takeCompletion s =
      { s with ctx := (takeCompletion s).ctx, dmaRx := (takeCompletion s).chan .rx, dmaTx := (takeCompletion s).chan .tx } := by
  unfold takeCompletion
  rw [inspectErr_frame .tx, inspectErr_frame .rx]
  cases s.params.callbackDir <;> rfl

/-- Settles O36: with a completion pending the step is its taking, whose three parts are stated each. -/
theorem periodCallback : Obligations.PeriodCallback := by
  intro s pending
  have taken : exec .periodCallback s = .next (takeCompletion s) :=
    if_pos (c := completionPending s = true) (decide_eq_true pending)
  rw [taken, takeCompletion_frame, takeCompletion_ctx, takeCompletion_chan, takeCompletion_chan]
  simp only [eq_comm (a := s.params.callbackDir)]
  rfl

end Sys2Proof.Machine
end

section
/-! SUPPORT. The coordinator's states (R31, R330): how a command begins, what a sequence still has to do, and that every step changes
`ctx.state` as the table allows: O57. -/

namespace Sys2Proof.Machine

/-! ## Transitions (R330) -/

/-- `ctx.state` stays or makes one transition of R330's table. -/
def CoordMoves (c c' : CoordState) : Prop := c' = c ∨ CoordStep c c'

/-- The table leads nowhere from STOPPED. -/
theorem CoordMoves.stopped {c' : CoordState} (h : CoordMoves .stopped c') : c' = .stopped :=
  h.resolve_right fun step => by cases c' <;> exact step

/-- Every state but STOPPED that a command can begin in leads to STOPPED (R330, R342). -/
theorem coordStep_stopped {c : CoordState} (running : c ≠ .stopped) (settled : c ≠ .synchronizing) : CoordStep c .stopped := by
  cases c
  case stopped => exact absurd rfl running
  case synchronizing => exact absurd rfl settled
  all_goals trivial

/-! ## Sequences that change `ctx.state` as the table allows (R330) -/

/-- The item changes `ctx.state` or ends the command. -/
def settlesCoord : Micro → Bool
  | .setCoord _ => true
  | .ret _ => true
  | .retFirst => true
  | _ => false

/-- The item may stand in a sequence run in state `c`, whatever follows it: it leaves `ctx.state` alone, does not end START's command
early, and is in START's loop only where START is. -/
def coordAllows (c : CoordState) (mi : Micro) : Bool :=
  !settlesCoord mi && (!mayFail mi || c != .synchronizing) && (!inStartLoop mi || c == .synchronizing)

theorem coordAllows_iff {c : CoordState} {mi : Micro} :
    coordAllows c mi = true ↔
      settlesCoord mi = false ∧ (mayFail mi = true → c ≠ .synchronizing) ∧ (inStartLoop mi = true → c = .synchronizing) := by
  simp only [coordAllows, Bool.and_eq_true, Bool.or_eq_true, Bool.not_eq_true', bne_iff_ne, beq_iff_eq, and_assoc,
    ← Bool.not_eq_true, ← imp_iff_not_or]

/-- What an item that neither changes `ctx.state` nor ends the command asks of a guarded sequence. -/
theorem coordGuarded_cons {c : CoordState} {mi : Micro} (h : settlesCoord mi = false) (rest : List Micro) :
    coordGuarded c (mi :: rest) ↔ coordAllows c mi = true ∧ coordGuarded c rest := by
  rw [coordAllows_iff, and_iff_right h, and_assoc]
  cases mi
  case setCoord | ret | retFirst => cases h
  all_goals exact Iff.rfl

/-- Items that may stand anywhere may stand in front. -/
theorem coordGuarded_append {c : CoordState} {more rest : List Micro} (h : more.all (coordAllows c) = true)
    (guarded : coordGuarded c rest) : coordGuarded c (more ++ rest) := by
  induction more with
  | nil => exact guarded
  | cons mi more ih =>
    rw [List.all_cons, Bool.and_eq_true] at h
    exact (coordGuarded_cons (coordAllows_iff.mp h.1).1 _).mpr ⟨h.1, ih h.2⟩

/-- A return may come in every state but SYNCHRONIZING. -/
theorem coordGuarded_ret {c : CoordState} (settled : c ≠ .synchronizing) (code : Code) (rest : List Micro) :
    coordGuarded c (.ret code :: rest) := settled

/-! ## Register-only items -/

/-- A register-only item leaves `ctx.state` alone, unless it is there to change it. -/
theorem quiet_state {mi : Micro} {s t : State} (other : settlesCoord mi = false) (h : quiet mi s = .act t) :
    t.ctx.state = s.ctx.state := by
  cases mi <;> simp only [quiet, guardThat] at h
  case setCoord => cases other
  case prime | clearPoll | guardResolved | guardConfigured | guardPrepare | guardSubmit =>
    split at h <;> cases h; rfl
  all_goals cases h; try rfl

/-- A sequence run from `s` comes to an access in the same `ctx.state`, what is left still guarded, or ends the command after at most
one transition. -/
def Ready.CoordGuarded (s : State) : Ready → Prop
  | .access u mi rest => u.ctx.state = s.ctx.state ∧ coordGuarded s.ctx.state (mi :: rest)
  | .ended t => t.ctx.state ≠ .synchronizing ∧ CoordMoves s.ctx.state t.ctx.state
  | .fault _ => True
  | .idle => True

/-- The one change of `ctx.state` is followed by the command's return (R330). -/
theorem runQuiet_setCoord {n : Nat} {x : CoordState} {rest : List Micro} {s : State}
    (guarded : coordGuarded s.ctx.state (.setCoord x :: rest)) : (runQuiet n (.setCoord x :: rest) s).CoordGuarded s := by
  obtain ⟨allowed, settled, returns⟩ := guarded
  rw [runQuiet_act (show quiet (.setCoord x) s = .act _ from rfl)]
  cases rest with
  | nil => cases returns
  | cons mi rest =>
    cases mi <;> first | exact ⟨settled, .inr allowed⟩ | cases returns

/-- A sequence that ends goes past an item that does not end it. -/
theorem runQuiet_cons_ended {n : Nat} {mi : Micro} {rest : List Micro} {s u : State} (other : settlesCoord mi = false)
    (h : runQuiet n (mi :: rest) s = .ended u) : ∃ t, quiet mi s = .act t ∧ runQuiet n rest t = .ended u := by
  unfold runQuiet at h
  split at h
  · cases h
  · next e => cases e; cases other
  · next e => cases e; cases other
  · next e =>
    injection e with e1 e2
    subst e1 e2
    split at h
    · next t acts => exact ⟨t, acts, h⟩
    · cases h
    · cases h

/-- The access a sequence comes to is neither a change of `ctx.state` nor a return. -/
theorem runQuiet_access_settles {n : Nat} {todo rest : List Micro} {mi : Micro} {s u : State}
    (h : runQuiet n todo s = .access u mi rest) : settlesCoord mi = false := by
  induction todo generalizing s with
  | nil => cases h
  | cons x xs ih =>
    rcases runQuiet_cons_access h with ⟨t, -, h'⟩ | ⟨access, -, rfl, -⟩
    · exact ih h'
    · cases mi
      case ret | retFirst => cases h
      case setCoord => cases access
      all_goals rfl

theorem runQuiet_coord {n : Nat} {todo : List Micro} {s : State} (guarded : coordGuarded s.ctx.state todo) :
    (runQuiet n todo s).CoordGuarded s := by
  induction todo generalizing s with
  | nil => trivial
  | cons mi rest ih =>
    by_cases settles : settlesCoord mi = true
    · cases mi <;> try cases settles
      · exact runQuiet_setCoord guarded
      · exact ⟨guarded, .inl rfl⟩
      · exact ⟨guarded, .inl rfl⟩
    · have other : settlesCoord mi = false := by simpa using settles
      have later := ((coordGuarded_cons other rest).mp guarded).2
      cases ready : runQuiet n (mi :: rest) s with
      | fault f => trivial
      | idle => trivial
      | access u x left =>
        rcases runQuiet_cons_access ready with ⟨t, acts, ready'⟩ | ⟨-, rfl, rfl, rfl⟩
        · have same := quiet_state other acts
          have after := ih (same ▸ later)
          rwa [ready', Ready.CoordGuarded, same] at after
        · exact ⟨rfl, guarded⟩
      | ended u =>
        obtain ⟨t, acts, ready'⟩ := runQuiet_cons_ended other ready
        have same := quiet_state other acts
        have after := ih (same ▸ later)
        rwa [ready', Ready.CoordGuarded, same] at after

/-! ## Accesses -/

theorem readOnBus_ctx {r : Reg} {s t : State} {v : Word} (e : readOnBus r s = .ok v t) : t.ctx = s.ctx := by
  cases r <;> simp only [readOnBus, fifoPop] at e
  case fifoA =>
    split at e
    · split at e <;> cases e <;> rfl
    · cases e
  all_goals cases e; rfl

theorem regRead_ctx {r : Reg} {s t : State} {v : Word} (e : regRead r s = .ok v t) : t.ctx = s.ctx := by
  unfold regRead at e
  split at e
  · rw [readOnBus_ctx e, afterBus_ctx]
  · cases e

theorem writeOnBus_ctx {r : Reg} {s t : State} {v : Word} (e : writeOnBus r v s = .ok () t) : t.ctx = s.ctx := by
  cases r <;> simp only [writeOnBus, fifoPush] at e
  case fifoA =>
    split at e
    · split at e <;> cases e; rfl
    · cases e
  case modeA => split at e <;> cases e; rfl
  case gray => cases e
  all_goals cases e; rfl

theorem regWrite_ctx {r : Reg} {s t : State} {v : Word} (e : regWrite r v s = .ok () t) : t.ctx = s.ctx := by
  unfold regWrite at e
  split at e
  · rw [writeOnBus_ctx e, afterBus_ctx]
  · cases e

/-- The access leaves `ctx.state` at `c`, and what it asks for may be run there. -/
def Act.CoordGuarded (c : CoordState) : Act → Prop
  | .done t more => t.ctx.state = c ∧ more.all (coordAllows c) = true
  | .replace t todo => t.ctx.state = c ∧ coordGuarded c todo
  | .hold => True
  | .fault _ => True
  | .refused _ => True

theorem actRead_coord {r : Reg} {s : State} {next : Word → State → Act}
    (hn : ∀ v t, t.ctx = s.ctx → (next v t).CoordGuarded s.ctx.state) : (actRead r s next).CoordGuarded s.ctx.state := by
  unfold actRead
  split
  · next e => exact hn _ _ (regRead_ctx e)
  · trivial
  · trivial

/-- A read that leads to items of no state's own. -/
theorem actRead_coord_done {r : Reg} {s : State} {more : Word → List Micro}
    (free : ∀ v, (more v).all (coordAllows s.ctx.state) = true) :
    (actRead r s fun v t => .done t (more v)).CoordGuarded s.ctx.state :=
  actRead_coord fun v _ same => ⟨congrArg Ctx.state same, free v⟩

theorem actWrite_coord {r : Reg} {v : Word} {s : State} {more : List Micro} (free : more.all (coordAllows s.ctx.state) = true) :
    (actWrite r v s fun t => .done t more).CoordGuarded s.ctx.state := by
  unfold actWrite
  split
  · next e => exact ⟨congrArg Ctx.state (regWrite_ctx e), free⟩
  · trivial
  · trivial

/-- START's time-out goes back to CONFIGURED, SYNC_FIFOS' ends the command (R258, R340). -/
theorem syncTimedOut_coord {c : CoordState} {inStart : Bool} (alone : inStart = false → c ≠ .synchronizing)
    (started : inStart = true → c = .synchronizing) (s : State) : coordGuarded c (syncTimedOut inStart s) := by
  cases inStart with
  | false => exact coordGuarded_ret (alone rfl) _ _
  | true =>
    cases started rfl
    exact coordGuarded_append (more := [_]) rfl ⟨trivial, by decide, rfl⟩

/-- The loop goes round, or is over, as its place in START or outside it allows. -/
theorem syncAgain_coord {c : CoordState} {inStart : Bool} (alone : inStart = false → c ≠ .synchronizing)
    (started : inStart = true → c = .synchronizing) {pre : List Micro} (free : pre.all (coordAllows c) = true) (iters : Word)
    {s : State} (same : s.ctx.state = c) : (syncAgain inStart iters pre s).CoordGuarded c := by
  have status : coordAllows c (.syncStatus inStart) = true := coordAllows_iff.mpr ⟨rfl, by simpa [mayFail] using alone, started⟩
  unfold syncAgain
  split
  · exact ⟨same, coordGuarded_append free (syncTimedOut_coord alone started s)⟩
  · exact ⟨same, by simp [free, status]⟩

theorem prepareFailed_coord {c : CoordState} (settled : c ≠ .synchronizing) (d : Dir) (e : Code) (s : State) :
    coordGuarded c (prepareFailed d e s) := by
  unfold prepareFailed
  split
  · exact coordGuarded_append (more := [.terminate .rx]) rfl (coordGuarded_ret settled _ _)
  · exact coordGuarded_ret settled _ _

theorem submitFailed_coord {c : CoordState} (settled : c ≠ .synchronizing) (unwind : Bool) : coordGuarded c (submitFailed unwind) := by
  cases unwind
  · exact coordGuarded_ret settled _ _
  · exact coordGuarded_append (more := [.terminate .tx, .terminate .rx]) rfl (coordGuarded_ret settled _ _)

/-- An access that may come in a state leaves it, and asks for items that may come there too. -/
theorem access_coord {mi : Micro} {s : State} (allowed : coordAllows s.ctx.state mi = true) :
    (access mi s).CoordGuarded s.ctx.state := by
  obtain ⟨-, settled, started⟩ := coordAllows_iff.mp allowed
  have stays : (Act.done s []).CoordGuarded s.ctx.state := ⟨rfl, rfl⟩
  cases mi with
  | readReg r => exact actRead_coord fun v t same => ⟨show t.ctx.state = _ from congrArg Ctx.state same, rfl⟩
  | writeReg r v => exact actWrite_coord rfl
  | updRead r mask val => exact actRead_coord_done fun _ => rfl
  | updWrite r old mask val =>
    simp only [access]; split
    · exact actWrite_coord rfl
    · exact stays
  | clkSetRate => exact ⟨rfl, rfl⟩
  | clkEnable => exact ⟨rfl, rfl⟩
  | alloc =>
    simp only [access]; split
    · exact ⟨rfl, settled rfl⟩
    · split
      · exact ⟨rfl, rfl⟩
      · trivial
  | slaveConfig d =>
    simp only [access]; split
    · exact ⟨by simp, rfl⟩
    · exact ⟨rfl, prepareFailed_coord (settled rfl) _ _ _⟩
  | prepCyclic d =>
    simp only [access]; split
    · exact ⟨by simp, rfl⟩
    · exact ⟨rfl, prepareFailed_coord (settled rfl) _ _ _⟩
  | submit d unwind =>
    simp only [access]; split
    · exact ⟨by simp, rfl⟩
    · exact ⟨rfl, submitFailed_coord (settled rfl) _⟩
  | issue d => exact ⟨by simp, rfl⟩
  | terminate d =>
    simp only [access]; split
    · exact ⟨by simp, rfl⟩
    · exact ⟨rfl, rfl⟩
  | synchronize d =>
    simp only [access]; split
    · exact ⟨by simp, rfl⟩
    · trivial
  | prime n =>
    cases n with
    | zero => exact stays
    | succ n => exact actWrite_coord rfl
  | clearSave tx rx => exact actRead_coord_done fun _ => rfl
  | clearEcho => exact actRead_coord_done fun _ => rfl
  | clearPoll e n =>
    cases n with
    | zero => exact stays
    | succ n => exact actRead_coord_done fun v => by split <;> rfl
  | syncStatus inStart =>
    have alone : inStart = false → s.ctx.state ≠ .synchronizing := by simpa [mayFail] using settled
    refine actRead_coord fun v t same => ?_
    split
    · exact ⟨congrArg Ctx.state same, (Bool.and_true _).trans allowed⟩
    · exact syncAgain_coord alone started rfl _ (congrArg Ctx.state same)
  | syncPush => exact actWrite_coord rfl
  | syncPop inStart =>
    have alone : inStart = false → s.ctx.state ≠ .synchronizing := by simpa [mayFail] using settled
    refine actRead_coord fun w t same => ?_
    unfold syncPopped
    split
    · exact ⟨congrArg Ctx.state same, rfl⟩
    · exact syncAgain_coord alone started rfl _ (congrArg Ctx.state same)
  | syncInit | countRead | countPop | retain | noteRate | guardResolved | guardConfigured | guardPrepare | guardSubmit | setConfigured
  | setCoord | ret | retFirst => exact stays

/-! ## CTRL's steps -/

/-- CTRL at the start of a command, outside SYNCHRONIZING (R330). -/
theorem coordSafe_start {s : State} (start : s.ctrl.m = 0) (settled : s.ctx.state ≠ .synchronizing) : CoordSafe s :=
  ⟨fun _ => settled, fun running => absurd start running⟩

/-- CTRL with a guarded sequence left. -/
theorem coordSafe_running {s : State} (running : s.ctrl.m ≠ 0) (guarded : coordGuarded s.ctx.state s.ctrl.todo) : CoordSafe s :=
  ⟨fun start => absurd start running, fun _ => guarded⟩

theorem goOn_coord {n : Nat} {todo : List Micro} {s t : State} (guarded : coordGuarded s.ctx.state todo)
    (e : goOn n todo s = .next t) : CoordSafe t ∧ CoordMoves s.ctx.state t.ctx.state := by
  have ready := runQuiet_coord (n := n) guarded
  unfold goOn at e
  split at e
  · next ended =>
    rw [ended] at ready
    cases e
    exact ⟨coordSafe_start (runQuiet_ended ended).1 ready.1, ready.2⟩
  · cases e
    exact ⟨coordSafe_running (Nat.succ_ne_zero _) guarded, .inl rfl⟩

/-- One micro-operation of a guarded sequence. -/
theorem microStep_coord {n : Nat} {todo : List Micro} {s t : State} (guarded : coordGuarded s.ctx.state todo) (safe : CoordSafe s)
    (e : microStep n todo s = .next t) : CoordSafe t ∧ CoordMoves s.ctx.state t.ctx.state := by
  have ready := runQuiet_coord (n := n) guarded
  unfold microStep at e
  split at e
  · next ended =>
    rw [ended] at ready
    cases e
    exact ⟨coordSafe_start (runQuiet_ended ended).1 ready.1, ready.2⟩
  · cases e
  · cases e; exact ⟨safe, .inl rfl⟩
  · next u mi rest comes =>
    rw [comes] at ready
    obtain ⟨same, left⟩ := ready
    obtain ⟨allowed, rest_guarded⟩ := (coordGuarded_cons (runQuiet_access_settles comes) rest).mp left
    rw [← same] at allowed rest_guarded ⊢
    have answer := access_coord allowed
    split at e
    · next done =>
      rw [done] at answer
      obtain ⟨kept, free⟩ := answer
      rw [← kept] at free rest_guarded ⊢
      exact goOn_coord (coordGuarded_append free rest_guarded) e
    · next replaced =>
      rw [replaced] at answer
      obtain ⟨kept, todo_guarded⟩ := answer
      rw [← kept] at todo_guarded ⊢
      exact goOn_coord todo_guarded e
    · cases e; exact ⟨safe, .inl same.symm⟩
    · cases e
    · cases e

/-- START's sequence begins with an update of CS_A, and what comes after it is guarded in SYNCHRONIZING (R340). -/
theorem startSeq_coord (s : State) :
    ∃ mask val tail, startSeq s = .updRead .csA mask val :: tail ∧ coordGuarded .synchronizing tail := by
  have last : coordGuarded .synchronizing [.setCoord .streaming, .ret .ok] := ⟨trivial, by decide, rfl⟩
  unfold startSeq
  split
  · exact ⟨_, _, _, rfl, coordGuarded_append (more := [.syncInit, .syncStatus true, .updRead .csA _ _]) rfl last⟩
  · exact ⟨_, _, _, rfl, last⟩

/-- The read half of an `UpdateBits` ends no command: its write half waits (R12, R182). -/
theorem microStep_updRead {n : Nat} {r : Reg} {mask val : Word} {rest : List Micro} {s t : State}
    (e : microStep n (.updRead r mask val :: rest) s = .next t) :
    t.ctx = s.ctx ∧ t.ctrl.m ≠ 0 ∧ ∃ old, t.ctrl.todo = .updWrite r old mask val :: rest := by
  rw [microStep_eq (runQuiet_access rfl n rest s)] at e
  simp only [access, actRead] at e
  split at e
  · next answers =>
    split at answers <;> cases answers
    next read =>
      have same := regRead_ctx read
      rw [List.singleton_append, goOn_access rfl] at e
      cases e
      exact ⟨same, Nat.succ_ne_zero _, _, rfl⟩
  · next answers => split at answers <;> cases answers
  · next answers => split at answers <;> cases answers
  · cases e
  · cases e

/-- START's first micro-operation enters SYNCHRONIZING (R330, R340). -/
theorem exec_start_coord {s t : State} (start : s.ctrl.m = 0) (e : exec .start s = .next t) :
    CoordSafe t ∧ CoordMoves s.ctx.state t.ctx.state := by
  rw [exec_eq_runCommand rfl] at e
  by_cases configured : s.ctx.state = .configured
  · rw [runCommand_begin start (show commandBegin .start s = .run _ _ from if_pos configured)] at e
    obtain ⟨mask, val, tail, seq, guarded⟩ := startSeq_coord s
    rw [seq] at e
    obtain ⟨ctx, running, old, todo⟩ := microStep_updRead e
    have state : t.ctx.state = .synchronizing := congrArg Ctx.state ctx
    refine ⟨coordSafe_running running ?_, .inr ?_⟩
    · rw [todo, state]
      exact coordGuarded_append (more := [_]) rfl guarded
    · rw [state, configured]
      trivial
  · rw [runCommand_fault start (show commandBegin .start s = .fault _ from if_neg configured)] at e
    cases e

/-! ## How a command begins (R330) -/

theorem resolveProfile_state {b : BitVec 8} {s t : State} (h : resolveProfile b s = .ok t) : t.ctx.state = s.ctx.state := by
  unfold resolveProfile at h
  split at h
  · cases h
  · split at h
    · split at h <;> cases h; rfl
    · cases h; rfl

/-- The item is none of START's loop, of a change of `ctx.state`, or of a return: it may stand in every state but SYNCHRONIZING. -/
def outsideStart (mi : Micro) : Bool := !settlesCoord mi && !inStartLoop mi

theorem all_coordAllows {c : CoordState} {more : List Micro} (settled : c ≠ .synchronizing) (outside : more.all outsideStart = true) :
    more.all (coordAllows c) = true := by
  rw [List.all_eq_true] at outside ⊢
  intro mi mem
  have plain := outside mi mem
  simp only [outsideStart, Bool.and_eq_true, Bool.not_eq_true'] at plain
  exact coordAllows_iff.mpr ⟨plain.1, fun _ => settled, fun started => absurd started (by simp [plain.2])⟩

/-- Such items and the return of a code. -/
theorem coordGuarded_returns {c : CoordState} {more : List Micro} (settled : c ≠ .synchronizing)
    (outside : more.all outsideStart = true) (code : Code) : coordGuarded c (more ++ [.ret code]) :=
  coordGuarded_append (all_coordAllows settled outside) (coordGuarded_ret settled code [])

theorem configureSeq_outsideStart (s : State) : (configureSeq s).all outsideStart = true := by
  unfold configureSeq clockSeq; split <;> rfl

/-- BUFFERS_SETUP leaves UNCONFIGURED last (R332). -/
theorem buffersSeq_coord (cc : Word) (s : State) : coordGuarded .unconfigured (buffersSeq cc s) := by
  have items : (prepareSeq .rx ++ prepareSeq .tx ++ clearRegistersSeq ++ configureSeq s ++ enableSeq s.params.regmap ++
      clearFifosSeq true true ++ [Micro.prime (s.params.dreqTx + cc.toNat)] ++ submitSeq true).all outsideStart = true := by
    simp only [List.all_append, configureSeq_outsideStart, Bool.and_true]
    rfl
  exact coordGuarded_append (all_coordAllows (by decide) items) ⟨trivial, by decide, rfl⟩

theorem beginRegister_coord {off : BitVec 8} {item : Reg → Micro} {s t : State} {todo : List Micro}
    (settled : s.ctx.state ≠ .synchronizing) (outside : ∀ r, outsideStart (item r) = true)
    (h : beginRegister off (fun r => [item r, .ret .ok]) s = .run t todo) :
    t.ctx.state = s.ctx.state ∧ coordGuarded s.ctx.state todo := by
  unfold beginRegister at h
  split at h <;> cases h
  exact ⟨rfl, coordGuarded_returns (more := [_]) settled ((Bool.and_true _).trans (outside _)) _⟩

/-- Every command but START begins in the `ctx.state` it finds, with a sequence guarded there. -/
theorem commandBegin_coord {i : Instr} {s t : State} {todo : List Micro} (other : i ≠ .start) (settled : s.ctx.state ≠ .synchronizing)
    (h : commandBegin i s = .run t todo) : t.ctx.state = s.ctx.state ∧ coordGuarded s.ctx.state todo := by
  cases i with
  | regRead off => exact beginRegister_coord (item := .readReg) settled (fun _ => rfl) h
  | regWrite off v => exact beginRegister_coord (item := (.writeReg · v)) settled (fun _ => rfl) h
  | regUpdateBits off mask val => exact beginRegister_coord (item := (.updRead · mask val)) settled (fun _ => rfl) h
  | resolve b =>
    simp only [commandBegin, beginResolve] at h
    split at h <;> cases h
    · next resolved => exact ⟨resolveProfile_state resolved, settled⟩
    · exact ⟨rfl, settled⟩
  | configure => cases h; exact ⟨rfl, coordGuarded_returns settled (configureSeq_outsideStart s) _⟩
  | init b =>
    simp only [commandBegin, beginInit, badState] at h
    split at h
    · split at h <;> cases h
      · next resolved =>
        exact ⟨resolveProfile_state resolved, coordGuarded_returns settled (more := [.alloc]) rfl _⟩
      · exact ⟨rfl, settled⟩
    · cases h
  | buffersSetup pf cc =>
    simp only [commandBegin, beginBuffers, badState] at h
    split at h
    · next guard =>
      split at h <;> cases h
      · exact ⟨rfl, guard.1 ▸ buffersSeq_coord cc s⟩
      · exact ⟨rfl, settled⟩
    · cases h
  | stop =>
    cases h
    refine ⟨rfl, ?_⟩
    unfold stopSeq
    split
    · next streaming =>
      rw [streaming]
      exact coordGuarded_append (more := [_]) rfl ⟨trivial, by decide, rfl⟩
    · exact settled
  | start => exact absurd rfl other
  | exit =>
    simp only [commandBegin, beginExit, badState] at h
    split at h
    · cases h
    · next running =>
      cases h
      exact ⟨rfl, coordGuarded_append (more := terminateSeq) rfl ⟨coordStep_stopped running settled, by decide, rfl⟩⟩
  | clearRegisters => cases h; exact ⟨rfl, coordGuarded_returns settled (more := clearRegistersSeq) rfl _⟩
  | enable => cases h; exact ⟨rfl, coordGuarded_returns settled (more := enableSeq _) rfl _⟩
  | clearFifos tx rx => cases h; exact ⟨rfl, coordGuarded_returns settled (more := clearFifosSeq tx rx) rfl _⟩
  | primeTxFifo n => cases h; exact ⟨rfl, coordGuarded_returns settled (more := [.prime n.toNat]) rfl _⟩
  | syncFifos tx rx => cases h; exact ⟨rfl, coordGuarded_returns settled (more := syncFifosSeq _ tx rx false) rfl _⟩
  | dmaPrepare d => cases h; exact ⟨rfl, coordGuarded_returns settled (more := prepareSeq d) rfl _⟩
  | dmaSubmit => cases h; exact ⟨rfl, coordGuarded_returns settled (more := submitSeq false) rfl _⟩
  | dmaTerminate => cases h; exact ⟨rfl, coordGuarded_append (more := terminateSeq) rfl settled⟩
  | periodCallback | waitCompletion | readBufIdx => cases h; exact ⟨rfl, trivial⟩

/-- One micro-operation of a command of CTRL: the first of its own sequence, or the next of the one it left. -/
theorem exec_ctrl_coord {i : Instr} {s t : State} (ctrl : cmdAgent i = .ctrl) (safe : CoordSafe s) (e : exec i s = .next t) :
    CoordSafe t ∧ CoordMoves s.ctx.state t.ctx.state := by
  by_cases start : s.ctrl.m = 0
  · by_cases isStart : i = .start
    · subst isStart
      exact exec_start_coord start e
    rw [exec_eq_runCommand ctrl] at e
    have settled := safe.1 start
    cases begins : commandBegin i s with
    | fault f => rw [runCommand_fault start begins] at e; cases e
    | run u todo =>
      rw [runCommand_begin start begins] at e
      obtain ⟨same, guarded⟩ := commandBegin_coord isStart settled begins
      rw [← same] at settled guarded ⊢
      exact microStep_coord guarded (coordSafe_start ((commandBegin_keeps begins).1.trans start) settled) e
  · rw [exec_goesOn ctrl start] at e
    exact microStep_coord (safe.2 start) safe e

theorem ctrlStep_coord {s t : State} (safe : CoordSafe s) (e : ctrlStep s = .next t) :
    CoordSafe t ∧ CoordMoves s.ctx.state t.ctx.state := by
  unfold ctrlStep at e
  split at e
  · cases e; exact ⟨safe, .inl rfl⟩
  · split at e
    · next decoded => exact exec_ctrl_coord (decodeFor_agent decoded).1 safe e
    · cases e

/-- Settles O57: CTRL changes `ctx.state` by the last item of a guarded sequence or by START's beginning, and no other agent changes it. -/
theorem coordinatorTransitions : Obligations.CoordinatorTransitions := by
  intro s t e safe
  have moves : CoordSafe t ∧ CoordMoves s.ctx.state t.ctx.state := by
    have stepped := step_next e
    by_cases mv : (moveOf s.inputs).1 = .ctrl
    · rw [mv] at stepped
      exact ctrlStep_coord (s := s.setInputs (moveOf s.inputs).2) safe stepped
    · have other := agentStep_other mv stepped
      have state : t.ctx.state = s.ctx.state := other.state_result.1
      have ctrl : t.ctrl = s.ctrl := other.ctrl
      rw [CoordSafe, state, ctrl]
      exact ⟨safe, .inl rfl⟩
  exact ⟨moves.1, moves.2, fun stopped => (stopped ▸ moves.2 : CoordMoves .stopped t.ctx.state).stopped⟩

end Sys2Proof.Machine
end

section
/-! SUPPORT. INIT (R331, R336), BUFFERS_SETUP's geometry (R103, R337), and the consumer port (R350 to R353): O37, O38, O44 and O45. -/

namespace Sys2Proof.Machine

/-! ## INIT (R331, R336) -/

/-- RESOLVE's body in INIT: the profile is resolved, or is resolved already (R210, R213). -/
theorem resolveProfile_known {s : State} {b id : BitVec 8} (known : profileIdOf s.params b = some id)
    (fresh_or_same : s.ctx.resolved = false ∨ s.ctx.profile = profileBundle s.params id) :
    resolveProfile b s = .ok (s.setCtx { s.ctx with profile := profileBundle s.params id, resolved := true }) := by
  cases resolved : s.ctx.resolved with
  | false => exact resolveProfile_fresh known resolved
  | true =>
    have same := fresh_or_same.resolve_left (by simp [resolved])
    rw [resolveProfile_same known resolved same.symm, ← same, ← resolved]
    rfl

theorem allocOk_iff {n phys size : Word} :
    allocOk n phys size = true ↔ size = n ∧ phys.toNat % 4 = 0 ∧ phys.toNat + size.toNat ≤ 2 ^ 32 := by
  simp only [allocOk, Bool.and_eq_true, beq_iff_eq, decide_eq_true_eq, and_assoc]

/-- `s` with the allocator called, `a` its answer and `as` the answers left (R79, R336). -/
def State.allocated (s : State) (a : AllocAnswer) (as : List AllocAnswer) : State :=
  { s with
    traces := { s.traces with events := s.traces.events ++ [.alloc s.params.maxBufferBytes a] }
    inputs := { s.inputs with allocs := as } }

section
variable {s : State} {as : List AllocAnswer}

/-- An allocation that fails ends INIT with E_ALLOC (R331). -/
theorem microStep_alloc_fail (answers : s.inputs.allocs = .fail :: as) :
    microStep 0 [.alloc, .ret .ok] s = .next (endCommand 0 .alloc (s.allocated .fail as)) :=
  microStep_replace (todo := [.ret .alloc]) rfl (by simp only [access, allocOf, answers]; rfl) 0 _

variable {virt phys size : Word} (answers : s.inputs.allocs = .ok virt phys size :: as)
include answers

/-- A region that meets R336 is the context's, and INIT ends with OK (R331). -/
theorem microStep_alloc_ok (ok : allocOk s.params.maxBufferBytes phys size = true) :
    microStep 0 [.alloc, .ret .ok] s =
      .next (endCommand 0 .ok ((s.allocated (.ok virt phys size) as).setCtx
        { s.ctx with region := ⟨virt, phys, size⟩, initDone := true })) :=
  microStep_done (more := []) rfl (by simp only [access, allocOf, answers, if_pos ok]; rfl) 0 _

theorem microStep_alloc_refused (bad : allocOk s.params.maxBufferBytes phys size ≠ true) :
    microStep 0 [.alloc, .ret .ok] s = .refused (.allocAnswer virt phys size) := by
  have refused : access .alloc s = .refused (.allocAnswer virt phys size) := by simp only [access, allocOf, answers, if_neg bad]
  rw [microStep_eq (runQuiet_access rfl 0 _ s), refused]

end

section
variable {s : State} {p : BitVec 8} (start : AtStart s) (unconfigured : s.ctx.state = .unconfigured) (fresh : s.ctx.initDone = false)
include start unconfigured fresh

/-- INIT goes on with the allocation where RESOLVE's body lets it (R331). -/
theorem exec_init_ok {t : State} (body : resolveProfile p s = .ok t) : exec (.init p) s = microStep 0 [.alloc, .ret .ok] t :=
  runCommand_begin start (by rw [beginInit, if_pos ⟨unconfigured, fresh⟩, body])

theorem exec_init_err {c : Code} (body : resolveProfile p s = .err c) : exec (.init p) s = .next (endCommand 0 c s) :=
  runCommand_begin (todo := [.ret c]) start (by rw [beginInit, if_pos ⟨unconfigured, fresh⟩, body])

theorem exec_init_fault {f : Fault} (body : resolveProfile p s = .fault f) : exec (.init p) s = .fault f :=
  runCommand_fault start (by rw [beginInit, if_pos ⟨unconfigured, fresh⟩, body])

end

/-- Settles O37: what RESOLVE's body answers, and where it lets INIT go on, what the allocator does. -/
theorem init : Obligations.Init := by
  intro s p start unconfigured fresh
  refine ⟨fun ⟨unknown, policy⟩ => exec_init_err start unconfigured fresh (resolveProfile_unknown unknown policy), fun known => ?_⟩
  have id_of := profileIdOf_eq known
  refine ⟨fun resolved other => ?_, fun fresh_or_same => ?_⟩
  · rw [← ctrlSite_start start]
    exact exec_init_fault start unconfigured fresh (resolveProfile_other id_of resolved (Ne.symm other))
  · have begins := exec_init_ok start unconfigured fresh (resolveProfile_known id_of fresh_or_same)
    exact ⟨fun as answers => begins.trans (microStep_alloc_fail answers), fun virt phys size as answers =>
      ⟨fun ok => begins.trans (microStep_alloc_ok answers (allocOk_iff.mpr ok)),
        fun bad => begins.trans (microStep_alloc_refused answers (mt allocOk_iff.mp bad))⟩⟩

/-! ## BUFFERS_SETUP's geometry (R103, R332, R337) -/

theorem geometryOk_iff {pf cc size : Word} :
    geometryOk pf cc size = true ↔ pf ≠ 0#32 ∧ cc ≠ 0#32 ∧ 2 * (2 * (pf.toNat * cc.toNat * 4)) + 8 ≤ size.toNat := by
  unfold geometryOk layoutBytes periodBytes
  simp only [Bool.and_eq_true, bne_iff_ne, decide_eq_true_eq, and_assoc]

/-- The geometry registers of a layout that fits 32 bits are exact, and the last buffer's end does not wrap where the region's does not
(R103, R337). -/
theorem geometryOf_exact {base pf cc : Word} {size : Nat} (fits : 2 * (2 * (pf.toNat * cc.toNat * 4)) + 8 ≤ size)
    (word : size < 2 ^ 32) :
    let g := geometryOf base pf cc
    g.periodLen.toNat = pf.toNat * cc.toNat * 4 ∧ g.bufLen.toNat = 2 * g.periodLen.toNat ∧
      (base.toNat + size ≤ 2 ^ 32 →
        g.cvBase.toNat = base.toNat + 2 * g.bufLen.toNat ∧ g.cvBase.toNat + 8 ≤ base.toNat + size) := by
  have period : (pf * cc * 4#32).toNat = pf.toNat * cc.toNat * 4 := by
    simp only [BitVec.toNat_mul, BitVec.toNat_ofNat, Nat.reducePow, Nat.reduceMod]
    omega
  have buffer : (2#32 * (pf * cc * 4#32)).toNat = 2 * (pf.toNat * cc.toNat * 4) := by
    rw [BitVec.toNat_mul, period]
    simp only [BitVec.toNat_ofNat, Nat.reducePow, Nat.reduceMod]
    omega
  refine ⟨period, buffer.trans (by rw [← period]; rfl), fun bound => ?_⟩
  simp only [geometryOf, BitVec.toNat_add, buffer]
  omega

/-- BUFFERS_SETUP's first step past its geometry check: whatever its first call is answered, the geometry registers are those of the pair
(R332). -/
theorem exec_buffersSetup_geometry {s : State} {pf cc : Word} (start : AtStart s) (unconfigured : s.ctx.state = .unconfigured)
    (initDone : s.ctx.initDone = true) (fits : geometryOk pf cc s.ctx.region.size = true) (idle : s.dmaRx.phase = .idle) :
    ∃ t, exec (.buffersSetup pf cc) s = .next t ∧ t.ctx.geom = geometryOf s.ctx.region.phys pf cc ∧ t.ctx.geomValid = true := by
  have begins : commandBegin (.buffersSetup pf cc) s = .run (s.withGeometry pf cc) (buffersSeq cc s) :=
    (if_pos ⟨unconfigured, initDone⟩).trans (if_pos fits)
  have guarded : quiet (.guardPrepare .rx) (s.withGeometry pf cc) = .act (s.withGeometry pf cc) := by
    simp [quiet, guardThat, State.withGeometry, idle]
  have ready {n : Nat} {rest : List Micro} : runQuiet n (.guardPrepare .rx :: .slaveConfig .rx :: rest) (s.withGeometry pf cc) =
      .access (s.withGeometry pf cc) (.slaveConfig .rx) rest := (runQuiet_act guarded _ _).trans (runQuiet_access rfl _ _ _)
  have first {rest : List Micro} : ∃ t, microStep (operandWords (.buffersSetup pf cc))
        (.guardPrepare .rx :: .slaveConfig .rx :: .prepCyclic .rx :: rest) (s.withGeometry pf cc) = .next t ∧
      t.ctx.geom = geometryOf s.ctx.region.phys pf cc ∧ t.ctx.geomValid = true := by
    rw [microStep_eq ready]
    simp only [access]
    cases answer : (answerOf (s.withGeometry pf cc).inputs).1 with
    | true => exact ⟨_, goOn_access rfl _ _ _, rfl, rfl⟩
    | false =>
      rw [prepareFailed_returns (.inl rfl)]
      exact ⟨_, goOn_ret _ _ _ _, rfl, rfl⟩
  rw [exec_eq_runCommand rfl, runCommand_begin start begins]
  exact first

/-- Settles O38: the check of the pair, and the first step past it. -/
theorem buffersGeometry : Obligations.BuffersGeometry := by
  intro s pf cc start unconfigured initDone
  refine ⟨fun refused => ?_, fun accepted idle => ?_⟩
  · have unfit : geometryOk pf cc s.ctx.region.size ≠ true := fun ok => by
      obtain ⟨frames, channels, fits⟩ := geometryOk_iff.mp ok
      rcases refused with zero | zero | large
      · exact frames zero
      · exact channels zero
      · omega
    exact runCommand_begin (todo := [.ret .geometry]) start ((if_pos ⟨unconfigured, initDone⟩).trans (if_neg unfit))
  · obtain ⟨t, first, geometry, valid⟩ :=
      exec_buffersSetup_geometry start unconfigured initDone (geometryOk_iff.mpr accepted) idle
    obtain ⟨period, buffer, last⟩ :=
      geometryOf_exact (base := s.ctx.region.phys) accepted.2.2 s.ctx.region.size.isLt
    refine ⟨t, first, valid, ?_⟩
    rw [geometry]
    exact ⟨rfl, rfl, period, buffer, rfl, rfl, rfl, last⟩

/-! ## The consumer port (R350 to R353) -/

/-- Settles O44: a command of the consumer port is one test of `notify`, or one copy. -/
theorem consumerCommands : Obligations.ConsumerCommands := by
  intro s
  exact ⟨fun notified => if_pos notified, fun waits => if_neg (by simp [waits]), rfl⟩

theorem inRegion_iff {s : State} {a : Word} {n : Nat} :
    inRegion s a n = true ↔
      s.ctx.region.phys.toNat ≤ a.toNat ∧ a.toNat + n ≤ s.ctx.region.phys.toNat + s.ctx.region.size.toNat := decide_eq_true_iff

section
variable {s : State} {acc : DataAccess} {a : Word} {n : AccessSize} (address : accessAddr acc = (a, n))
include address

/-- The checks of a consumer data step, on its address and size (R353, log 13). -/
theorem consData_eq : consData acc s =
    if inRegion s a 1 then
      if a.toNat % sizeBytes n = 0 then
        if inRegion s a (sizeBytes n) then .next (s.setMem (accessMem s.mem acc)) else .fault (.memRange (.cons s.cons.k) a)
      else .fault (.misaligned (.cons s.cons.k) a)
    else .fault (.memRange (.cons s.cons.k) a) := by
  simp only [consData, address]
  rfl

theorem consData_memRange (out : inRegion s a 1 = false ∨ (a.toNat % sizeBytes n = 0 ∧ inRegion s a (sizeBytes n) = false)) :
    consData acc s = .fault (.memRange (.cons s.cons.k) a) := by
  rw [consData_eq address]
  rcases out with outside | ⟨aligned, past⟩
  · simp [outside]
  · simp [aligned, past]

theorem consData_misaligned (inside : inRegion s a 1 = true) (misaligned : a.toNat % sizeBytes n ≠ 0) :
    consData acc s = .fault (.misaligned (.cons s.cons.k) a) := by
  rw [consData_eq address, if_pos inside, if_neg misaligned]

theorem consData_accessed (inside : inRegion s a 1 = true) (aligned : a.toNat % sizeBytes n = 0)
    (fits : inRegion s a (sizeBytes n) = true) : consData acc s = .next (s.setMem (accessMem s.mem acc)) := by
  rw [consData_eq address, if_pos inside, if_pos aligned, if_pos fits]

end

/-- Settles O45: the checks of R353 decide which of the outcomes it is, and a write is `memWrite`. -/
theorem consumerData : Obligations.ConsumerData := by
  intro s a n canonical len
  have size : len = sizeBytes n := by cases n <;> rfl
  clear_value len
  subst size
  dsimp only
  have inside_iff : inRegion s a 1 = true ↔
      s.ctx.region.phys.toNat ≤ a.toNat ∧ a.toNat < s.ctx.region.phys.toNat + s.ctx.region.size.toNat := inRegion_iff
  refine ⟨fun out => ?_, fun inside misaligned => ?_, fun inside aligned fits => ?_⟩
  · have range : inRegion s a 1 = false ∨ (a.toNat % sizeBytes n = 0 ∧ inRegion s a (sizeBytes n) = false) := by
      refine out.imp (fun outside => ?_) (And.imp_right fun past => ?_)
      · exact Bool.eq_false_iff.mpr (mt inside_iff.mp outside)
      · exact Bool.eq_false_iff.mpr fun within => by have := (inRegion_iff.mp within).2; omega
    exact ⟨consData_memRange rfl range, fun v => consData_memRange rfl range⟩
  · exact ⟨consData_misaligned rfl (inside_iff.mpr inside) misaligned,
      fun v => consData_misaligned rfl (inside_iff.mpr inside) misaligned⟩
  · have within := inRegion_iff.mpr ⟨inside.1, fits⟩
    refine ⟨consData_accessed rfl (inside_iff.mpr inside) aligned within,
      fun v => ⟨_, consData_accessed rfl (inside_iff.mpr inside) aligned within, rfl, fun i bound => ?_, fun x apart => ?_, ?_⟩⟩
    · refine (memByte_memWrite canonical _ _ v _).trans ((if_pos (by omega)).trans ?_)
      rw [Nat.add_sub_cancel_left]
      rfl
    · exact (memByte_memWrite canonical _ _ v x).trans (if_neg (by omega))
    · rintro rfl
      exact memWord_memWrite canonical a.toNat v

end Sys2Proof.Machine
end

section
/-! SUPPORT. START, STOP and EXIT (R340 to R342): O40 to O43. -/

namespace Sys2Proof.Machine

/-! ## The enables in a command of two accesses -/

/-- A command's first access, in the state its beginning leaves (R47). -/
theorem begun_done {i : Instr} {s t u : State} {mi : Micro} {rest more : List Micro} (ctrl : cmdAgent i = .ctrl) (start : AtStart s)
    (begins : commandBegin i s = .run t (mi :: rest)) (acc : isAccess mi = true)
    (answers : ∀ m waiting, access mi (t.paused m waiting) = .done (u.paused m waiting) more) : Done i s 1 (more ++ rest) u := by
  refine ⟨t.ctrl.m, t.ctrl.todo, ?_⟩
  rw [execFor_one, exec_eq_runCommand ctrl, runCommand_begin start begins]
  exact microStep_done acc (answers t.ctrl.m t.ctrl.todo) _ _

/-- The write of an `UpdateBits` of CS_A whose read was answered in `v` (R182). -/
theorem Reached.csWritten {i : Instr} {s v : State} {n : Nat} {mask val d : Word} {inputs : Inputs} {rest : List Micro}
    (here : Reached i s n (.updWrite .csA (csValue v d) mask val :: rest) (v.setInputs inputs)) (layout : DefaultLayout v)
    (reliable : BusReliable v) (settable : Settable mask) :
    ∃ cs pipe, CsUpdates mask val v cs pipe ∧ Done i s (n + 1) rest (v.withCs cs pipe inputs) := by
  by_cases idle : v.params.updateAlwaysWrites = false ∧ csSame mask val v
  · exact ⟨v.pr.cs, v.pipe, ⟨fun _ => ⟨rfl, rfl⟩, fun other => absurd idle other⟩,
      here.done rfl fun m waiting => access_csWrite_same (s := v) layout _ settable idle.2 idle.1⟩
  · have changes : ¬csSame mask val v ∨ v.params.updateAlwaysWrites = true := by
      rw [← Bool.not_eq_false, ← not_and_or]
      exact fun ⟨agrees, unforced⟩ => idle ⟨unforced, agrees⟩
    exact ⟨_, _, ⟨fun kept => absurd kept idle, fun _ => ⟨rfl, rfl⟩⟩,
      here.done (t := csUpdate mask val (v.setInputs inputs)) rfl fun m waiting =>
        access_csWrite (s := v) (u := (v.setInputs inputs).paused m waiting) layout reliable rfl rfl rfl _ settable changes⟩

/-- After an update of both enables they are as its mask says (R254). -/
theorem CsUpdates.enabled {tx rx : Bool} {v : State} {cs : CsA} {pipe : Pipe}
    (left : CsUpdates (enableMask bcmCs true true) (enableMask bcmCs tx rx) v cs pipe) : cs.txon = tx ∧ cs.rxon = rx := by
  by_cases idle : v.params.updateAlwaysWrites = false ∧ v.pr.cs.txon = tx ∧ v.pr.cs.rxon = rx
  · rw [(left.enables.1 idle).1]
    exact idle.2
  · rw [(left.enables.2 idle).1]
    exact ⟨rfl, rfl⟩

/-- `v` in the coordinator's state `c` (R330). -/
def State.entering (v : State) (c : CoordState) : State := v.setCtx { v.ctx with state := c }

/-- A command that only enters a state and returns is over. -/
theorem Done.enters {i : Instr} {s v : State} {n : Nat} {c : CoordState} {r : Code} (left : Done i s n [.setCoord c, .ret r] v) :
    execFor i n s = .next (endCommand (operandWords i) r (v.entering c)) := left.ends fun _ _ => rfl

theorem bothEnables_default {s : State} (layout : DefaultLayout s) : bothEnables s = enableMask bcmCs true true := by
  rw [bothEnables, show s.params.regmap = bcm2835 from layout]
  rfl

/-! ## START (R340) -/

/-- For a profile without the synchronizer START is this update (R340, R17). -/
theorem startSeq_straight {s : State} (layout : DefaultLayout s) (other : s.ctx.profile.profileId ≠ 2#8) :
    startSeq s = [.updRead .csA (enableMask bcmCs true true) (enableMask bcmCs true true), .setCoord .streaming, .ret .ok] := by
  rw [startSeq, if_neg other, bothEnables_default layout]
  rfl

section
variable {s : State} (start : AtStart s) (layout : DefaultLayout s) (reliable : BusReliable s) (configured : s.ctx.state = .configured)
include start layout reliable configured

/-- START's first two micro-operations are an update of CS_A, for every profile; after the first one it is SYNCHRONIZING. -/
theorem start_updates {mask val : Word} {rest : List Micro} (items : startSeq s = .updRead .csA mask val :: rest)
    (settable : Settable mask) :
    ∃ s1 cs pipe, exec .start s = .next s1 ∧ s1.ctx.state = .synchronizing ∧ CsUpdates mask val s cs pipe ∧
      Done .start s 2 rest ((s.entering .synchronizing).withCs cs pipe (drawOf s.inputs).2) := by
  have begins : commandBegin .start s = .run (s.entering .synchronizing) (.updRead .csA mask val :: rest) := items ▸ if_pos configured
  have read := begun_done rfl start begins rfl (u := (s.entering .synchronizing).setInputs (drawOf s.inputs).2)
    (more := [.updWrite .csA (csValue (s.entering .synchronizing) (drawOf s.inputs).1) mask val]) fun m waiting =>
    access_csRead (s := (s.entering .synchronizing).paused m waiting) reliable mask val
  obtain ⟨m, first⟩ := read.waits rfl
  obtain ⟨cs, pipe, left, written⟩ := (read.goes rfl rfl).csWritten (v := (s.entering .synchronizing)) layout reliable settable
  exact ⟨_, cs, pipe, (execFor_one _ _).symm.trans first, rfl, left, written⟩

end

/-- Settles O40: the read and the write of one update of CS_A. -/
theorem startStraight : Obligations.StartStraight := by
  intro s start layout reliable configured other same
  obtain ⟨s1, cs, pipe, first, enters, left, second⟩ :=
    start_updates start layout reliable configured (startSeq_straight layout other) (settable_enables true true)
  exact ⟨s1, _, first, enters, (execFor_one _ _).symm.trans ((execFor_succ first 1).symm.trans second.enters),
    left.enables.1, left.enables.2, rfl⟩

/-! ## START with the synchronizer (R254, R259) -/

/-- For profile bit-clock-provider START runs the synchronizer before its update (R340). -/
theorem startSeq_synchronizes {s : State} (layout : DefaultLayout s) (provider : s.ctx.profile.profileId = 2#8) :
    startSeq s = .updRead .csA (enableMask bcmCs true true) (enableMask bcmCs true true) :: .syncInit :: .syncStatus true ::
      [.updRead .csA (enableMask bcmCs true true) (enableMask bcmCs true true), .setCoord .streaming, .ret .ok] := by
  rw [startSeq, if_pos provider, bothEnables_default layout, show s.params.regmap = bcm2835 from layout]
  rfl

/-- A loop that reaches its limit in START clears the enables again (R258, R340). -/
theorem syncTimedOut_start {s : State} (layout : DefaultLayout s) :
    syncTimedOut true s =
      [.updRead .csA (enableMask bcmCs true true) (enableMask bcmCs false false), .setCoord .configured, .ret .syncTimeout] := by
  rw [syncTimedOut, show s.params.regmap = bcm2835 from layout]
  rfl

/-- START up to the synchronizer's first status read: the enables are on and its registers cleared (R254). -/
theorem start_syncBegins {s : State} (start : AtStart s) (layout : DefaultLayout s) (reliable : BusReliable s)
    (configured : s.ctx.state = .configured) (provider : s.ctx.profile.profileId = 2#8) :
    ∃ s1 cs pipe, exec .start s = .next s1 ∧ s1.ctx.state = .synchronizing ∧
      CsUpdates (enableMask bcmCs true true) (enableMask bcmCs true true) s cs pipe ∧
      Reached .start s 2 (.syncStatus true ::
          [.updRead .csA (enableMask bcmCs true true) (enableMask bcmCs true true), .setCoord .streaming, .ret .ok])
        (syncCleared ((s.entering .synchronizing).withCs cs pipe (drawOf s.inputs).2)) := by
  obtain ⟨s1, cs, pipe, first, enters, left, second⟩ :=
    start_updates start layout reliable configured (startSeq_synchronizes layout provider) (settable_enables true true)
  exact ⟨s1, cs, pipe, first, enters, left, (second.goes rfl rfl).quiet fun _ _ => rfl⟩

/-- Settles O41: the update of the enables, the synchronizer's loop, and the update that sets them again or, past the limit, clears them. -/
theorem startSynchronizes : Obligations.StartSynchronizes := by
  intro s start layout reliable configured provider
  obtain ⟨s1, cs, pipe, first, enters, left, here⟩ := start_syncBegins start layout reliable configured provider
  refine ⟨fun pre rest e f on waiting first_zero second_zero others word room limit => ?_,
    fun n empty limited some_read word => ?_⟩
  · have words : (pre ++ [e]).map RxEntry.word = pre.map RxEntry.word ++ [0#32] := by simp [first_zero]
    have count : (pre ++ [e]).length = pre.length + 1 := by simp
    have pair : zeroPair ((pre ++ [e]).map RxEntry.word) f.word = true := by simp [words, zeroPair, second_zero]
    have still_on : FifoOpen ((s.entering .synchronizing).withCs cs pipe (drawOf s.inputs).2) :=
      ⟨(left.enables.kept (field := CsA.en) rfl).trans on.1, (left.enables.kept (field := CsA.stby) rfl).trans on.2⟩
    have popped : ((pre ++ [e]).map RxEntry.word ++ [f.word]).length = pre.length + 2 ∧
        ((pre ++ [e]).map RxEntry.word ++ [f.word]).getLastD 0#32 = 0#32 ∧
        ((pre ++ [e]).map RxEntry.word ++ [f.word]).isEmpty = false := by simp [second_zero]
    rw [List.append_cons] at waiting
    obtain ⟨inputs, found⟩ := here.findsPair rfl layout reliable still_on waiting (by rw [count]; exact room) (words ▸ others) pair
      (by omega) fun n h => by have := limit n h; omega
    have synced := (found.goes rfl rfl).quiet (quiet_countPop_pair pair _ rest inputs)
    obtain ⟨cs', pipe', left', updated⟩ := synced.updateCs rfl layout reliable (settable_enables true true)
    obtain ⟨txon, rxon⟩ := left'.enabled
    refine ⟨_, s1, _, first, enters, (execFor_succ first _).symm.trans updated.enters, ?_, txon, rxon, ?_, rfl, rfl⟩
    · simp only [endCommand, State.entering, State.withCs, State.popped, popped, Bool.not_false, syncCleared, State.setCtx, State.setCtrl,
        State.setTraces]
    · simp only [endCommand, State.entering, State.withCs, State.popped, popped, Bool.not_false, syncCleared, State.setCtx, State.setCtrl,
        State.setTraces]
  · obtain ⟨more, rfl⟩ := Nat.exists_eq_add_of_le some_read
    obtain ⟨inputs, spent⟩ := here.polls_empty (v := syncCleared ((s.entering .synchronizing).withCs cs pipe (drawOf s.inputs).2))
      (reads := 0) (inputs := (drawOf s.inputs).2) rfl layout reliable empty limited word
    have counted := (spent.goes rfl rfl).quiet (quiet_countRead_polled _ _ inputs)
    rw [syncTimedOut_start (s := syncCleared ((s.entering .synchronizing).withCs cs pipe (drawOf s.inputs).2)) layout] at counted
    obtain ⟨cs', pipe', left', updated⟩ := counted.updateCs rfl layout reliable (settable_enables true true)
    obtain ⟨txon, rxon⟩ := left'.enabled
    refine ⟨_, s1, _, first, (execFor_succ first _).symm.trans updated.enters, ?_, txon, rxon, rfl, rfl⟩
    · rw [show Nat.succ 0 + more = 0 + more + 1 by omega, ← configured]
      rfl

/-! ## STOP (R341) -/

/-- Settles O42: outside STREAMING the command has no access; in STREAMING it is one update of CS_A. -/
theorem stop : Obligations.Stop := by
  intro s start
  have here : Reached .stop s 0 (stopSeq s) s := .start rfl start rfl
  unfold stopSeq at here
  refine ⟨fun elsewhere => ?_, fun streaming layout reliable => ?_⟩
  · rw [if_neg elsewhere] at here
    exact (execFor_one _ _).symm.trans (here.ends fun m waiting => rfl)
  · intro same
    rw [if_pos streaming, bothEnables_default layout, show (0#32 : Word) = enableMask bcmCs false false from rfl] at here
    obtain ⟨cs, pipe, left, updated⟩ := here.updateCs rfl layout reliable (settable_enables true true)
    obtain ⟨s1, first, second⟩ := execFor_first updated.enters
    exact ⟨s1, _, first, (execFor_one _ _).symm.trans second, left.enables.1, left.enables.2, rfl⟩

/-! ## EXIT (R342) -/

/-- Both teardowns, TX then RX, each waited for if it is accepted, in any command that ends with what comes behind them (R296). -/
theorem Reached.teardowns {i : Instr} {s v t : State} {a b : Bool} {as : List Bool} {rest : List Micro}
    (here : Reached i s 0 (.terminate .tx :: .terminate .rx :: rest) v) (ctrl : cmdAgent i = .ctrl)
    (answers : v.inputs.answers = a :: b :: as)
    (ended : ∀ m waiting, goOn (operandWords i) rest (((v.tornDown .tx (b :: as) a).tornDown .rx as b).paused m waiting) = .next t) :
    execQuiesced i (1 + a.toNat + (1 + b.toNat)) s = .next (quiesceWaited t) := by
  obtain ⟨_, _, tx⟩ := here.teardown ctrl answers
  have left : (v.tornDown .tx (b :: as) a).inputs.answers = b :: as := by cases a <;> rfl
  obtain ⟨_, _, rx⟩ := (Reached.resumed ctrl (v.tornDown .tx (b :: as) a) _ _).teardown ctrl left
  rw [execQuiesced_add (tx _ (goOn_access rfl _ _ _))]
  exact rx _ (ended _ _)

/-- The first error of EXIT's teardowns (R297). -/
theorem tornDown_first (s : State) (a b : Bool) (rest as : List Bool) :
    (((clearFirst s).tornDown .tx rest a).tornDown .rx as b).ctrl.first = if a && b then .ok else .terminate := by
  cases a <;> cases b <;> rfl

/-- No channel has a completion to report. -/
theorem completionPending_none {s : State} (none : ∀ d, (s.chan d).pending = 0) : completionPending s = false := by
  simp [completionPending, none]

/-- EXIT from its first teardown on (R342). -/
theorem reached_exit {s : State} (start : AtStart s) (alive : s.ctx.state ≠ .stopped) :
    exec .exit s = exec .exit (clearFirst s) ∧
      Reached .exit (clearFirst s) 0 (.terminate .tx :: .terminate .rx :: [.setCoord .stopped, .retFirst]) (clearFirst s) :=
  ⟨exec_begun rfl start start (if_neg alive) (if_neg alive),
    .start rfl start (if_neg alive)⟩

/-- Settles O43: the two teardowns of DMA_TERMINATE, then STOPPED. -/
theorem exit : Obligations.Exit := by
  intro s a b as start alive answers
  obtain ⟨begun, here⟩ := reached_exit start alive
  have run := here.teardowns (t := endCommand 0 (if a && b then .ok else .terminate)
    ((((clearFirst s).tornDown .tx (b :: as) a).tornDown .rx as b).entering .stopped)) rfl answers fun m waiting => by
      rw [← tornDown_first s a b (b :: as) as]
      rfl
  rw [show 1 + a.toNat + (1 + b.toNat) = 1 + a.toNat + b.toNat + 1 by omega] at run
  obtain ⟨s1, first, others⟩ := execQuiesced_first run
  have final := congrArg (State.entering · .stopped) (dmaTerminate_final s (if a && b then .ok else .terminate) a b (b :: as) as)
  refine ⟨s1, _, begun.trans first, fun accepted active => ?_, others, final, ?_⟩
  · subst accepted
    obtain ⟨_, waits, held, -⟩ := here.terminate_waits rfl answers
    have busy : quiesced s.dmaTx = false := by rcases active with e | e | e <;> (rw [quiesced, e]; rfl)
    rw [execFor_one, first] at waits
    cases waits
    exact ⟨terminateChannel_active active, (held busy).1⟩
  · rintro rfl rfl
    exact completionPending_none fun d => by cases d <;> rfl

end Sys2Proof.Machine
end

section
/-! SUPPORT. A command's run with its draws, its micro-step count, the SYNC register and CS_A's error flags out of sight (R12, R182): what
the items of a longer command leave of the rest of the state. -/

namespace Sys2Proof.Machine

/-! ## What register accesses change beside what is asked (R75, R185, R463) -/

/-- The inputs but for the answers left, the SYNC register and its counter, and CS_A's error flags. -/
structure Drift where
  inputs : Inputs
  syncW : Bool
  syncCnt : Nat
  txerr : Bool
  rxerr : Bool

/-- With `clean`, the error flags are clear. -/
def Drift.Flags (clean : Bool) (x : Drift) : Prop := clean = true → x.txerr = false ∧ x.rxerr = false

/-- CS_A with the error flags of `x`. -/
def CsA.flagged (cs : CsA) (x : Drift) : CsA := { cs with txerr := x.txerr, rxerr := x.rxerr }

/-- `v` with what drifts as `x` says. -/
def State.drifted (v : State) (x : Drift) : State :=
  { v with
    pr := { v.pr with cs := v.pr.cs.flagged x }
    pipe := { v.pipe with syncW := x.syncW, syncCnt := x.syncCnt }
    inputs := { x.inputs with answers := v.inputs.answers } }

/-- What drifts, as it is in `v`. -/
def State.drift (v : State) : Drift := ⟨v.inputs, v.pipe.syncW, v.pipe.syncCnt, v.pr.cs.txerr, v.pr.cs.rxerr⟩

theorem drawOf_answers (inputs : Inputs) : (drawOf inputs).2.answers = inputs.answers := by
  unfold drawOf; split <;> rfl

/-- A draw is part of what drifts. -/
theorem State.drifted_drawn (v : State) (x : Drift) :
    (v.drifted x).setInputs (drawOf (v.drifted x).inputs).2 = v.drifted { x with inputs := (drawOf (v.drifted x).inputs).2 } := by
  have answers : (drawOf (v.drifted x).inputs).2.answers = v.inputs.answers := drawOf_answers _
  generalize (drawOf (v.drifted x).inputs).2 = inputs at answers
  unfold State.drifted State.setInputs
  rw [← answers]
  rfl

/-- So are SYNC and the error flags of a CS_A, in an update that draws: `cs` and `p` say what it leaves of the rest. -/
theorem State.drifted_withCs {v : State} {x y : Drift} {cs : CsA} {pipe p : Pipe} {inputs : Inputs}
    (sync : pipe = { p with syncW := pipe.syncW, syncCnt := pipe.syncCnt }) (answers : inputs.answers = v.inputs.answers) :
    (v.drifted x).withCs (cs.flagged y) pipe inputs =
      ((v.setPr { v.pr with cs := cs }).setPipe p).drifted ⟨inputs, pipe.syncW, pipe.syncCnt, y.txerr, y.rxerr⟩ := by
  unfold State.drifted State.withCs State.setPr State.setPipe
  rw [← answers, ← sync]
  rfl

/-- A run of the command from `s` comes to `todo` in `v`, up to what drifts; with `clean`, with CS_A's error flags clear. -/
def Comes (clean : Bool) (i : Instr) (s : State) (todo : List Micro) (v : State) : Prop :=
  ∃ n x, Drift.Flags clean x ∧ Reached i s n todo (v.drifted x)

theorem Reached.comes {i : Instr} {s v : State} {n : Nat} {todo : List Micro} (here : Reached i s n todo v) : Comes false i s todo v :=
  ⟨n, v.drift, nofun, here⟩

section
variable {clean : Bool} {i : Instr} {s v t : State} {mi : Micro} {rest : List Micro}

/-- A register-only item. -/
theorem Comes.quiet (here : Comes clean i s (mi :: rest) v)
    (acts : ∀ x m waiting, quiet mi ((v.drifted x).paused m waiting) = .act ((t.drifted x).paused m waiting)) :
    Comes clean i s rest t := by
  obtain ⟨n, x, flags, here⟩ := here
  exact ⟨n, x, flags, here.quiet (acts x)⟩

variable (ctrl : cmdAgent i = .ctrl)
include ctrl

/-- An access: the items it asks for come before the rest. -/
theorem Comes.done {more : List Micro} (here : Comes clean i s (mi :: rest) v) (acc : hasAccess (more ++ rest) = true)
    (access_mi : isAccess mi = true)
    (answers : ∀ x m waiting, access mi ((v.drifted x).paused m waiting) = .done ((t.drifted x).paused m waiting) more) :
    Comes clean i s (more ++ rest) t := by
  obtain ⟨n, x, flags, here⟩ := here
  exact ⟨_, x, flags, (here.done access_mi (answers x)).goes ctrl acc⟩

/-- An access that only reads. -/
theorem Comes.reads {more : List Micro} (here : Comes clean i s (mi :: rest) v) (acc : hasAccess (more ++ rest) = true)
    (access_mi : isAccess mi = true)
    (answers : ∀ x m waiting, let u := (v.drifted x).paused m waiting; access mi u = .done (u.setInputs (drawOf u.inputs).2) more) :
    Comes clean i s (more ++ rest) v := by
  obtain ⟨n, x, flags, here⟩ := here
  have read := here.done (t := (v.drifted x).setInputs (drawOf (v.drifted x).inputs).2) access_mi (answers x)
  rw [State.drifted_drawn] at read
  exact ⟨_, { x with inputs := (drawOf (v.drifted x).inputs).2 }, flags, read.goes ctrl acc⟩

/-! ## Registers (R181, R182) -/

/-- A write of a register that CS_A is not (R181). -/
theorem Comes.writeReg {r : Reg} {val : Word} {pr : Peripheral} (here : Comes clean i s (.writeReg r val :: rest) v)
    (acc : hasAccess rest = true) (reliable : BusReliable v)
    (stores : ∀ x, RegStores v.params r val (v.drifted x).pr ((v.setPr pr).drifted x).pr) : Comes clean i s rest (v.setPr pr) := by
  refine here.done (more := []) ctrl acc rfl fun x m waiting => ?_
  simp only [access, actWrite, regWrite_reliable (s := (v.drifted x).paused m waiting) reliable,
    stores x ((v.drifted x).paused m waiting) rfl rfl]
  rfl

/-- `UpdateBits` of such a register, `old` the word its read answers with a draw (R182). -/
theorem Comes.updateReg {r : Reg} {mask val : Word} {old : Word → Word} {pr : Peripheral}
    (here : Comes clean i s (.updRead r mask val :: rest) v) (acc : hasAccess rest = true) (reliable : BusReliable v)
    (reads : ∀ u : State, u.params = v.params → (∃ x, u.pr = (v.drifted x).pr) →
      readOnBus r u = .ok (old (drawOf u.inputs).1) (u.setInputs (drawOf u.inputs).2))
    (stores : ∀ d x, RegStores v.params r (updated (old d) mask val) (v.drifted x).pr ((v.setPr pr).drifted x).pr)
    (idle : ∀ d, updated (old d) mask val = old d → pr = v.pr) : Comes clean i s rest (v.setPr pr) := by
  obtain ⟨n, x, flags, here⟩ := here
  have read := (here.done (t := (v.drifted x).setInputs (drawOf (v.drifted x).inputs).2)
    (more := [.updWrite r (old (drawOf (v.drifted x).inputs).1) mask val]) rfl fun m waiting => by
      simp only [access, actRead, regRead_reliable (s := (v.drifted x).paused m waiting) reliable,
        reads ((v.drifted x).paused m waiting) rfl ⟨x, rfl⟩]
      rfl).goes ctrl rfl
  rw [State.drifted_drawn] at read
  have written : Comes clean i s (.updWrite r (old (drawOf (v.drifted x).inputs).1) mask val :: rest) v :=
    ⟨_, { x with inputs := (drawOf (v.drifted x).inputs).2 }, flags, read⟩
  generalize (drawOf (v.drifted x).inputs).1 = d at written
  refine written.done (more := []) ctrl acc rfl fun y m waiting => ?_
  by_cases writing : updated (old d) mask val ≠ old d ∨ v.params.updateAlwaysWrites = true
  · simp only [access, if_pos (show _ ∨ ((v.drifted y).paused m waiting).params.updateAlwaysWrites = true from writing), actWrite,
      regWrite_reliable (s := (v.drifted y).paused m waiting) reliable, stores d y ((v.drifted y).paused m waiting) rfl rfl]
    rfl
  · simp only [access, if_neg (show ¬(_ ∨ ((v.drifted y).paused m waiting).params.updateAlwaysWrites = true) from writing)]
    rw [idle d (Decidable.of_not_not (not_or.mp writing).1)]
    rfl

/-- `UpdateBits` of CS_A: `cs` and `p` say what it leaves of CS_A and the pipelines (R182, R463). -/
theorem Comes.updatesCs {mask val : Word} {ends : Bool} {cs : CsA} {p : Pipe} (here : Comes clean i s (.updRead .csA mask val :: rest) v)
    (acc : hasAccess rest = true) (layout : DefaultLayout v) (reliable : BusReliable v) (settable : Settable mask)
    (leaves : ∀ x cs' pipe, Drift.Flags clean x → CsUpdates mask val (v.drifted x) cs' pipe →
      ∃ y, Drift.Flags ends y ∧ cs' = cs.flagged y ∧ pipe = { p with syncW := pipe.syncW, syncCnt := pipe.syncCnt }) :
    Comes ends i s rest ((v.setPr { v.pr with cs := cs }).setPipe p) := by
  obtain ⟨n, x, flags, here⟩ := here
  obtain ⟨cs', pipe, left, updated⟩ := here.updateCs ctrl layout reliable settable
  obtain ⟨y, clears, rfl, sync⟩ := leaves x cs' pipe flags left
  have reached := updated.goes ctrl acc
  rw [State.drifted_withCs (v := v) sync (drawOf_answers (v.drifted x).inputs)] at reached
  exact ⟨_, ⟨(drawOf (v.drifted x).inputs).2, pipe.syncW, pipe.syncCnt, y.txerr, y.rxerr⟩, clears, reached⟩

/-- Under a mask of stored fields, whose write does `set` to them. -/
theorem Comes.updateCs {mask val : Word} {set : CsA → CsA} (here : Comes clean i s (.updRead .csA mask val :: rest) v)
    (acc : hasAccess rest = true) (layout : DefaultLayout v) (reliable : BusReliable v) (stored : StoredMask mask)
    (drifts : ∀ cs x, set (cs.flagged x) = (set cs).flagged x) (same : ∀ u : State, csSame mask val u → set u.pr.cs = u.pr.cs)
    (picked : ∀ u : State, csPicked mask val u = { set u.pr.cs with txerr := false, rxerr := false }) :
    Comes clean i s rest (v.setPr { v.pr with cs := set v.pr.cs }) := by
  obtain ⟨settable, no_txclr, no_rxclr, no_sync⟩ := stored
  refine here.updatesCs (cs := set v.pr.cs) (p := v.pipe) (ends := clean) ctrl acc layout reliable settable fun x cs' pipe flags left => ?_
  obtain ⟨-, agrees, rfl, rfl⟩ | ⟨-, rfl, rfl⟩ := left.cases
  · exact ⟨x, flags, (same _ agrees).symm.trans (drifts _ _), rfl⟩
  · rw [picked, pipePicked_keep no_txclr no_rxclr no_sync, show (v.drifted x).pr.cs = v.pr.cs.flagged x from rfl, drifts]
    exact ⟨{ x with txerr := false, rxerr := false }, fun _ => ⟨rfl, rfl⟩, rfl, rfl⟩

end

/-! ## CLEAR_FIFOS' body, no PCM clock coming (R250, R252) -/

theorem storedMask_enables : StoredMask (enableMask bcmCs true true) := by unfold StoredMask; decide

/-- `v` after CLEAR_FIFOS' body for both FIFOs (R250, R252). -/
def State.clearsPending (v : State) : State := timeoutCounted (v.setPipe (clearsAsked true true v.pipe))

section
variable {clean : Bool} {i : Instr} {s v : State} {rest : List Micro} (ctrl : cmdAgent i = .ctrl)
include ctrl

/-- Both enables as `tx` and `rx` say (R250). -/
theorem Comes.enables {tx rx : Bool}
    (here : Comes clean i s (.updRead .csA (enableMask bcmCs true true) (enableMask bcmCs tx rx) :: rest) v)
    (acc : hasAccess rest = true) (layout : DefaultLayout v) (reliable : BusReliable v) :
    Comes clean i s rest (v.setPr { v.pr with cs := { v.pr.cs with txon := tx, rxon := rx } }) :=
  here.updateCs (set := fun cs => { cs with txon := tx, rxon := rx }) ctrl acc layout reliable storedMask_enables (fun _ _ => rfl)
    (fun u agrees => by obtain ⟨rfl, rfl⟩ := (csSame_enables tx rx u).mp agrees; rfl) (csPicked_enables tx rx)

/-- Both clears asked for (R76, R250). -/
theorem Comes.asksClears (here : Comes clean i s (.updRead .csA (clearMask bcmCs true true) (clearMask bcmCs true true) :: rest) v)
    (acc : hasAccess rest = true) (layout : DefaultLayout v) (reliable : BusReliable v) :
    Comes false i s rest (v.setPipe (clearsAsked true true v.pipe)) := by
  refine here.updatesCs (cs := v.pr.cs) ctrl acc layout reliable (settable_clears true true) fun x cs' pipe _ left => ?_
  obtain ⟨cs_eq, -, pipe_eq⟩ := left.clears
  rw [pipe_eq nofun, cs_eq]
  exact ⟨{ x with txerr := cs'.txerr, rxerr := cs'.rxerr }, nofun, rfl, rfl⟩

/-- SYNC toggled, which clears the error flags (R250, R463). -/
theorem Comes.togglesSync (here : Comes clean i s (.updRead .csA (fieldMask bcmCs.sync) (~~~echoWord v.pipe.syncR) :: rest) v)
    (acc : hasAccess rest = true) (layout : DefaultLayout v) (reliable : BusReliable v) : Comes true i s rest v := by
  refine here.updatesCs (cs := v.pr.cs) (p := v.pipe) ctrl acc layout reliable settable_sync fun x cs' pipe _ left => ?_
  obtain ⟨rfl, rfl⟩ := CsUpdates.toggles (v := v.drifted x) left
  exact ⟨{ x with txerr := false, rxerr := false }, fun _ => ⟨rfl, rfl⟩, rfl, rfl⟩

/-- The poll's reads, none of which finds the echo changed (R252). -/
theorem Comes.polls {k : Nat} (here : Comes clean i s (.clearPoll (echoWord v.pipe.syncR) k :: rest) v) (acc : hasAccess rest = true)
    (layout : DefaultLayout v) (reliable : BusReliable v) : Comes clean i s rest (timeoutCounted v) := by
  induction k with
  | zero => exact here.quiet fun _ _ _ => rfl
  | succ k ih =>
    exact ih <| here.reads (more := [.clearPoll (echoWord v.pipe.syncR) k]) ctrl (by simp [hasAccess, acc]) rfl fun x m waiting =>
      (access_clearPoll (v := (v.drifted x).paused m waiting) layout reliable _ k).trans (congrArg _ (if_pos rfl))

/-- CLEAR_FIFOS' body for both FIFOs (R250, R252). -/
theorem Comes.clears (here : Comes clean i s (.clearSave true true :: rest) v) (acc : hasAccess rest = true) (layout : DefaultLayout v)
    (reliable : BusReliable v) : Comes true i s rest v.clearsPending := by
  have saved := here.reads (more := clearAfterSave bcmCs true true (enableMask bcmCs v.pr.cs.txon v.pr.cs.rxon)) ctrl rfl rfl
    fun x m waiting => access_clearSave (v := (v.drifted x).paused m waiting) layout reliable true true
  have disabled := Comes.enables (tx := false) (rx := false) ctrl saved rfl layout reliable
  have asked := disabled.asksClears ctrl rfl layout reliable
  have echoed := asked.reads (more := [.updRead .csA (fieldMask bcmCs.sync) (~~~echoWord v.pipe.syncR),
    .clearPoll (echoWord v.pipe.syncR) v.params.clearPollLimit]) ctrl rfl rfl
    fun x m waiting => access_clearEcho (v := (State.drifted _ x).paused m waiting) layout reliable
  have polled := (echoed.togglesSync ctrl (by simp [hasAccess, isAccess]) layout reliable).polls ctrl rfl layout reliable
  exact polled.enables ctrl acc layout reliable

/-- Zero pushes that all fit (R253). -/
theorem Comes.primes {k : Nat} (here : Comes clean i s (.prime k :: rest) v) (acc : hasAccess rest = true) (reliable : BusReliable v)
    (on : FifoOpen v) (room : v.fifo.tx.length + k ≤ v.params.fifoDepth) : Comes clean i s rest (v.pushed k) := by
  induction k generalizing v with
  | zero => exact here.quiet fun _ _ _ => by rw [State.pushed_zero]; rfl
  | succ k ih =>
    obtain ⟨n, x, flags, here⟩ := here
    have fits : v.fifo.tx.length < v.params.fifoDepth := by omega
    have pushed := (here.prime (v := v.drifted x) reliable on fits).goes ctrl (by simp [hasAccess, acc])
    rw [Nat.add_comm k 1, ← State.pushed_pushed]
    exact ih ⟨_, x, flags, pushed⟩ reliable on (by rw [State.pushed_length]; show _ ≤ v.params.fifoDepth; omega)

end

end Sys2Proof.Machine
end

section
/-! SUPPORT. BUFFERS_SETUP (R332, R335): O39. -/

namespace Sys2Proof.Machine

/-! ## The registers of CLEAR_REGISTERS, CONFIGURE and ENABLE (R214, R217 to R223) -/

/-- `v` after CLEAR_REGISTERS' body (R214). -/
def State.registersCleared (v : State) : State :=
  { v with ctx := { v.ctx with configured := false }, pr := ⟨v.pr.cs, 0#32, 0#32, 0#32, 0#32, 0#32, v.pr.intstc⟩ }

/-- CS_A with CONFIGURE's thresholds and DMAEN (R221). -/
def CsA.thresholds (p : Params) (cs : CsA) : CsA :=
  { cs with txthr := BitVec.ofNat 2 p.txThr, rxthr := BitVec.ofNat 2 p.rxThr, dmaen := true }

/-- `v` after CONFIGURE's register accesses (R217 to R221). -/
def State.registersSet (v : State) (mode format dreq : Word) : State :=
  { v with
    ctx := { v.ctx with configured := true }
    pr := { v.pr with cs := v.pr.cs.thresholds v.params, mode := mode, rxc := format, txc := format, dreq := dreq } }

/-- `v` after ENABLE's body, no interrupt enabled before (R223). -/
def State.enabled (v : State) : State :=
  { v with pr := { v.pr with cs := { v.pr.cs with stby := true, en := true }, inten := 0xC#32 } }

section
variable {clean : Bool} {i : Instr} {s v : State} {rest : List Micro} (ctrl : cmdAgent i = .ctrl)
include ctrl

/-- CLEAR_REGISTERS' body (R214). -/
theorem Comes.registersCleared (here : Comes clean i s (clearRegistersSeq ++ rest) v) (acc : hasAccess rest = true)
    (reliable : BusReliable v) : Comes clean i s rest v.registersCleared := by
  have mode := here.writeReg ctrl rfl reliable (pr := { v.pr with mode := 0#32 }) fun x =>
    regStores_modeA ⟨BitVec.zero_and, BitVec.zero_and⟩
  have rxc := mode.writeReg ctrl rfl reliable (pr := { v.pr with mode := 0#32, rxc := 0#32 }) fun x => regStores_rxcA BitVec.zero_and
  have txc := rxc.writeReg ctrl rfl reliable (pr := { v.pr with mode := 0#32, rxc := 0#32, txc := 0#32 }) fun x =>
    regStores_txcA BitVec.zero_and
  have dreq := txc.writeReg ctrl rfl reliable (pr := { v.pr with mode := 0#32, rxc := 0#32, txc := 0#32, dreq := 0#32 }) fun x =>
    regStores_dreqA BitVec.zero_and
  have inten := dreq.writeReg ctrl acc reliable (pr := v.registersCleared.pr) fun x => regStores_intenA BitVec.zero_and
  exact inten.quiet fun _ _ _ => rfl

/-- CONFIGURE's register accesses (R217 to R221). -/
theorem Comes.registersSet {mode format dreq : Word}
    (here : Comes clean i s (registerItems mode format (thresholdVal bcmCs v.params) dreq (.setConfigured true :: rest)) v)
    (acc : hasAccess rest = true) (layout : DefaultLayout v) (reliable : BusReliable v) (launched : launchRefusal v.params = none)
    (runs : ModeRuns mode) (stored : dreq &&& dreqKnown v.params.regmap.dreq = dreq) :
    Comes clean i s rest (v.registersSet mode format dreq) := by
  obtain ⟨-, -, -, -, rxThr, txThr⟩ := levels_of_launch launched
  obtain ⟨txthr, rxthr, dmaen⟩ := thresholdVal_fields rxThr txThr
  have mode_set := here.writeReg ctrl rfl reliable (pr := { v.pr with mode := mode }) fun x =>
    regStores_modeA (modeRuns_stored layout runs)
  have rxc_set := mode_set.writeReg ctrl rfl reliable (pr := { v.pr with mode := mode, rxc := format }) fun x =>
    regStores_rxcA (format_stored layout format)
  have txc_set := rxc_set.writeReg ctrl rfl reliable (pr := { v.pr with mode := mode, rxc := format, txc := format }) fun x =>
    regStores_txcA (format_stored layout format)
  have mode_kept := txc_set.updateReg ctrl rfl reliable (pr := { v.pr with mode := mode, rxc := format, txc := format })
    (old := plainValue (modeKnown v.params.regmap.mode) mode)
    (fun u params ⟨x, pr⟩ => by simp only [readOnBus, params, pr]; rfl) (fun d x => regStores_modeA (modeRuns_clkDis layout runs d))
    fun _ _ => rfl
  have thresholds := mode_kept.updateCs (set := CsA.thresholds v.params) ctrl rfl layout reliable storedMask_thresholds
    (fun _ _ => rfl)
    (fun u agrees => by
      obtain ⟨tx, rx, dma⟩ := (csSame_thresholds dmaen).mp agrees
      rw [CsA.thresholds, ← txthr, ← rxthr, ← tx, ← rx, ← dma])
    (fun u => by rw [csPicked_thresholds dmaen, txthr, rxthr]; rfl)
  have dreq_set := thresholds.writeReg ctrl acc reliable (pr := (v.registersSet mode format dreq).pr) fun x => regStores_dreqA stored
  exact dreq_set.quiet fun _ _ _ => rfl

/-- ENABLE's body (R223). -/
theorem Comes.enabled (here : Comes clean i s (enableItems rest) v) (acc : hasAccess rest = true) (layout : DefaultLayout v)
    (reliable : BusReliable v) (off : v.pr.inten = 0#32) : Comes clean i s rest v.enabled := by
  have errors : 0xC#32 &&& intKnown v.params.regmap.int = 0xC#32 := by rw [intKnown_default layout]; rfl
  have stby := here.updateCs (set := fun cs => { cs with stby := true }) ctrl rfl layout reliable storedMask_stby (fun _ _ => rfl)
    (fun u agrees => by rw [← (csSame_stby u).mp agrees]) csPicked_stby
  have inten := stby.updateReg ctrl rfl reliable (pr := { v.pr with cs := { v.pr.cs with stby := true }, inten := 0xC#32 })
    (old := plainValue (intKnown v.params.regmap.int) 0#32)
    (fun u params ⟨x, pr⟩ => by simp only [readOnBus, params, pr, ← off]; rfl)
    (fun d x => regStores_intenA (errorInts_stored BitVec.zero_and d errors))
    fun d idle => absurd (errorInts_idle BitVec.zero_and d errors idle) (by decide)
  exact inten.updateCs (set := fun cs => { cs with en := true }) ctrl acc layout reliable storedMask_en (fun _ _ => rfl)
    (fun u agrees => by rw [← (csSame_en u).mp agrees]) csPicked_en

end

/-! ## The clock of bit-clock-provider (R216) -/

section
variable {v : State} {as : List Bool} (answers : v.inputs.answers = true :: as) (m : Nat) (waiting : List Micro)
include answers

theorem access_clkSetRate_accepted :
    access .clkSetRate (v.paused m waiting) =
      .done ((v.called (.clkSetRate v.ctx.profile.bclkRate true) as).paused m waiting) [.noteRate true] := by
  simp only [access, answerOf_listed answers, logEvent_afterAnswer answers]
  rfl

theorem access_clkEnable_accepted :
    access .clkEnable (v.paused m waiting) = .done (((v.called (.clkEnable true) as).setClk true).paused m waiting) [] := by
  simp only [access, answerOf_listed answers, afterAnswer]
  rfl

end

/-- `v` with the bit clock's rate set and the clock enabled, both calls accepted, `as` the answers left (R216). -/
def State.clocked (v : State) (as : List Bool) : State :=
  { v with
    ctx := { v.ctx with clkRate := v.ctx.profile.bclkRate }
    clkEnabled := true
    traces := { v.traces with events := v.traces.events ++ [.clkSetRate v.ctx.profile.bclkRate true] ++ [.clkEnable true] }
    inputs := { v.inputs with answers := as } }

/-- Both clock calls accepted (R216). -/
theorem Comes.clocked {clean : Bool} {i : Instr} {s v : State} {rest : List Micro} {as : List Bool}
    (here : Comes clean i s (.clkSetRate :: .clkEnable :: rest) v) (ctrl : cmdAgent i = .ctrl) (acc : hasAccess rest = true)
    (answers : v.inputs.answers = true :: true :: as) : Comes clean i s rest (v.clocked as) := by
  have rate := here.done (t := v.called (.clkSetRate v.ctx.profile.bclkRate true) (true :: as)) (more := [.noteRate true]) ctrl rfl rfl
    fun x m waiting => access_clkSetRate_accepted (v := v.drifted x) answers m waiting
  have noted := rate.quiet
    (t := (v.called (.clkSetRate v.ctx.profile.bclkRate true) (true :: as)).setCtx { v.ctx with clkRate := v.ctx.profile.bclkRate })
    fun x m waiting => by
      simp only [Machine.quiet, rateNoted, Bool.not_true, Bool.or_false]
      rfl
  exact noted.done (more := []) ctrl acc rfl fun x m waiting => access_clkEnable_accepted (v := State.drifted _ x) rfl m waiting

/-! ## BUFFERS_SETUP's items (R332, R335) -/

/-- DMA_SUBMIT's calls as BUFFERS_SETUP makes them, and its end (R294, R332). -/
def submitItems : List Micro :=
  [.submit .rx true, .submit .tx true, .issue .rx, .issue .tx, .setCoord .configured, .ret .ok]

/-- BUFFERS_SETUP's items from CONFIGURE's first register access on (R217 to R223, R253). -/
def registersItems (p : Params) (provider : Bool) (pos : Nat × Nat) (zeros : Nat) : List Micro :=
  registerItems (modeWord provider) (formatWord pos) (thresholdVal bcmCs p) (dreqVal bcmDreq p)
    (.setConfigured true :: .guardConfigured :: enableItems (.clearSave true true :: .prime zeros :: .guardSubmit :: submitItems))

/-- BUFFERS_SETUP's items behind the two preparations. -/
def bringUpItems (p : Params) (provider : Bool) (pos : Nat × Nat) (zeros : Nat) : List Micro :=
  clearRegistersSeq ++ .guardResolved :: clockItems provider (registersItems p provider pos zeros)

theorem buffersSeq_default {s : State} {provider : Bool} {pos : Nat × Nat} (layout : DefaultLayout s)
    (bundle : Bundles s.ctx.profile provider pos) (permitted : Permitted pos) (cc : Word) :
    buffersSeq cc s =
      .guardPrepare .rx :: .slaveConfig .rx :: .prepCyclic .rx :: .guardPrepare .tx :: .slaveConfig .tx :: .prepCyclic .tx ::
        bringUpItems s.params provider pos (s.params.dreqTx + cc.toNat) := by
  have masks : fieldMask bcmMode.clkDis = 0x10000000#32 ∧ thresholdMask bcmCs = 0x3E0#32 ∧ fieldMask bcmCs.stby = 0x2000000#32 ∧
    errorInts bcmInt = 0xC#32 ∧ fieldMask bcmCs.en = 0x1#32 := by decide
  rw [bringUpItems, registersItems, ← modeVal_eq bundle, ← formatVal_eq bundle permitted]
  obtain ⟨-, -, clock, -, -, -⟩ := bundle
  simp only [buffersSeq, configureSeq, enableSeq, show s.params.regmap = bcm2835 from layout, bcm2835, masks, clockSeq, clock]
  cases provider <;> rfl

/-! ## From its beginning to DMA_SUBMIT's calls -/

/-- `v` with both channels prepared, every answer ok, `as` the answers left (R291, R332). -/
def State.channelsPrepared (v : State) (as : List Bool) : State :=
  (((v.slaved .rx (true :: true :: true :: as)).prepared .rx (true :: true :: as)).slaved .tx (true :: as)).prepared .tx as

/-- `v` after CONFIGURE's clock step (R216). -/
def State.clockSetUp (v : State) (provider : Bool) (as : List Bool) : State :=
  match provider with
  | true => v.clocked as
  | false => { v with inputs := { v.inputs with answers := as } }

/-- The answers that CONFIGURE's clock step takes. -/
def clockAnswers (provider : Bool) (as : List Bool) : List Bool :=
  match provider with
  | true => true :: true :: as
  | false => as

/-- `v` after everything but the clock and the calls for the channels (R214 to R223, R250, R253). -/
def State.registersUp (v : State) (provider : Bool) (pos : Nat × Nat) (zeros : Nat) : State :=
  ((v.registersSet (modeWord provider) (formatWord pos) (dreqVal bcmDreq v.params)).enabled.clearsPending).pushed zeros

/-- The events of the two preparations (R291, R332). -/
def preparedEvents (s : State) (pf cc : Word) : List Event :=
  s.traces.events ++ [.slaveConfig .rx (slaveCfgOf s.params .rx) true] ++
    [.prepCyclic .rx (descOf s.params (geometryOf s.ctx.region.phys pf cc) .rx) true] ++
    [.slaveConfig .tx (slaveCfgOf s.params .tx) true] ++
    [.prepCyclic .tx (descOf s.params (geometryOf s.ctx.region.phys pf cc) .tx) true]

/-- The events `es` and CONFIGURE's clock step (R216). -/
def clockEvents (s : State) (provider : Bool) (es : List Event) : List Event :=
  match provider with
  | true => es ++ [.clkSetRate s.ctx.profile.bclkRate true] ++ [.clkEnable true]
  | false => es

/-- `s` right before DMA_SUBMIT's calls, in BUFFERS_SETUP's own terms, `as` the answers left (R332, R335). -/
def State.setUp (s : State) (pf cc : Word) (provider : Bool) (pos : Nat × Nat) (as : List Bool) : State :=
  let geom := geometryOf s.ctx.region.phys pf cc
  { s with
    ctx := { s.ctx with
      configured := true
      clkRate := if provider then s.ctx.profile.bclkRate else s.ctx.clkRate
      geom := geom
      geomValid := true
      clearTimeouts := s.ctx.clearTimeouts + 1#32 }
    pr := { s.pr with
      cs := { s.pr.cs.thresholds s.params with stby := true, en := true }
      mode := modeWord provider
      rxc := formatWord pos
      txc := formatWord pos
      dreq := dreqVal bcmDreq s.params
      inten := 0xC#32 }
    fifo := { s.fifo with tx := s.fifo.tx ++ List.replicate (s.params.dreqTx + cc.toNat) 0#32 }
    dmaRx := ⟨.prepared, some (slaveCfgOf s.params .rx), some (descOf s.params geom .rx), 0#32, 0, false⟩
    dmaTx := ⟨.prepared, some (slaveCfgOf s.params .tx), some (descOf s.params geom .tx), 0#32, 0, false⟩
    clkEnabled := if provider then true else s.clkEnabled
    pipe := clearsAsked true true s.pipe
    traces := { s.traces with events := clockEvents s provider (preparedEvents s pf cc) }
    inputs := { s.inputs with answers := as } }

/-- One channel's two calls together (R291). -/
theorem prepared_slaved (v : State) (d : Dir) (as as' : List Bool) :
    (v.slaved d as).prepared d as' =
      ({ v with
        traces := { v.traces with
          events := v.traces.events ++ [.slaveConfig d (slaveCfgOf v.params d) true] ++
            [.prepCyclic d (descOf v.params v.ctx.geom d) true] }
        inputs := { v.inputs with answers := as' } } : State).setChan d
        ⟨.prepared, some (slaveCfgOf v.params d), some (descOf v.params v.ctx.geom d), 0#32, 0, false⟩ := by
  cases d <;> rfl

theorem channelsPrepared_eq (v : State) (as : List Bool) :
    v.channelsPrepared as = { v with
      dmaRx := ⟨.prepared, some (slaveCfgOf v.params .rx), some (descOf v.params v.ctx.geom .rx), 0#32, 0, false⟩
      dmaTx := ⟨.prepared, some (slaveCfgOf v.params .tx), some (descOf v.params v.ctx.geom .tx), 0#32, 0, false⟩
      traces := { v.traces with
        events := v.traces.events ++ [.slaveConfig .rx (slaveCfgOf v.params .rx) true] ++
          [.prepCyclic .rx (descOf v.params v.ctx.geom .rx) true] ++ [.slaveConfig .tx (slaveCfgOf v.params .tx) true] ++
          [.prepCyclic .tx (descOf v.params v.ctx.geom .tx) true] }
      inputs := { v.inputs with answers := as } } := by
  rw [State.channelsPrepared, prepared_slaved, prepared_slaved]
  rfl

theorem registersUp_eq (v : State) (provider : Bool) (pos : Nat × Nat) (zeros : Nat) :
    v.registersUp provider pos zeros = { v with
      ctx := { v.ctx with configured := true, clearTimeouts := v.ctx.clearTimeouts + 1#32 }
      pr := { v.pr with
        cs := { v.pr.cs.thresholds v.params with stby := true, en := true }
        mode := modeWord provider
        rxc := formatWord pos
        txc := formatWord pos
        dreq := dreqVal bcmDreq v.params
        inten := 0xC#32 }
      fifo := { v.fifo with tx := v.fifo.tx ++ List.replicate zeros 0#32 }
      pipe := clearsAsked true true v.pipe } := rfl

/-- BUFFERS_SETUP up to CLEAR_REGISTERS' items, both preparations accepted (R291, R332). -/
theorem reached_channelsPrepared {s : State} {pf cc : Word} {as : List Bool} (start : AtStart s)
    (unconfigured : s.ctx.state = .unconfigured) (initDone : s.ctx.initDone = true)
    (fits : geometryOk pf cc s.ctx.region.size = true) (rxIdle : s.dmaRx.phase = .idle) (txIdle : s.dmaTx.phase = .idle)
    (answers : s.inputs.answers = true :: true :: true :: true :: as) {rest : List Micro} (acc : hasAccess rest = true)
    (items : buffersSeq cc s =
      .guardPrepare .rx :: .slaveConfig .rx :: .prepCyclic .rx :: .guardPrepare .tx :: .slaveConfig .tx :: .prepCyclic .tx :: rest) :
    exec (.buffersSetup pf cc) s = exec (.buffersSetup pf cc) (s.withGeometry pf cc) ∧
      ∃ n, Reached (.buffersSetup pf cc) (s.withGeometry pf cc) (n + 1) rest ((s.withGeometry pf cc).channelsPrepared as) := by
  have begins : commandBegin (.buffersSetup pf cc) s = .run (s.withGeometry pf cc) (buffersSeq cc s) :=
    (if_pos ⟨unconfigured, initDone⟩).trans (if_pos fits)
  have again : commandBegin (.buffersSetup pf cc) (s.withGeometry pf cc) = .run (s.withGeometry pf cc) (buffersSeq cc s) :=
    (if_pos ⟨unconfigured, initDone⟩).trans (if_pos fits)
  refine ⟨exec_begun rfl start start begins again, 3, ?_⟩
  rw [items] at again
  have rx_slaved := (Reached.guardPrepare (v := s.withGeometry pf cc) (d := .rx) (.start rfl start again) rxIdle rfl).slaved rfl rfl answers
  have rx := (rx_slaved.prepared rfl).goes rfl rfl
  have tx_slaved := (rx.guardPrepare txIdle rfl).slaved rfl rfl rfl
  exact (tx_slaved.prepared rfl).goes rfl acc

theorem hasAccess_clockItems {provider : Bool} {rest : List Micro} (acc : hasAccess rest = true) :
    hasAccess (clockItems provider rest) = true := by cases provider; exacts [acc, rfl]

/-- CONFIGURE's clock step, which only bit-clock-provider makes (R216). -/
theorem Comes.clockSetUp {clean provider : Bool} {i : Instr} {s v : State} {rest : List Micro} {as : List Bool}
    (here : Comes clean i s (clockItems provider rest) v) (ctrl : cmdAgent i = .ctrl) (acc : hasAccess rest = true)
    (answers : v.inputs.answers = clockAnswers provider as) : Comes clean i s rest (v.clockSetUp provider as) := by
  cases provider with
  | true => exact Comes.clocked here ctrl acc answers
  | false =>
    obtain rfl : v.inputs.answers = as := answers
    exact here

/-- From CONFIGURE's first register access to DMA_SUBMIT's calls (R217 to R223, R250, R253). -/
theorem Comes.registersUp {clean provider : Bool} {pos : Nat × Nat} {zeros : Nat} {i : Instr} {s v : State}
    (here : Comes clean i s (registersItems v.params provider pos zeros) v) (ctrl : cmdAgent i = .ctrl) (layout : DefaultLayout v)
    (reliable : BusReliable v) (launched : launchRefusal v.params = none) (off : v.pr.inten = 0#32) (prepared : bothPrepared v = true)
    (room : v.fifo.tx.length + zeros ≤ v.params.fifoDepth) : Comes true i s submitItems (v.registersUp provider pos zeros) := by
  have configured := here.registersSet ctrl rfl layout reliable launched (modeWord_runs provider).1 (dreqVal_stored layout)
  have guarded := configured.quiet (t := v.registersSet (modeWord provider) (formatWord pos) (dreqVal bcmDreq v.params)) fun _ _ _ => rfl
  have enabled := guarded.enabled ctrl rfl layout reliable off
  have cleared := enabled.clears ctrl (by simp [hasAccess, isAccess, submitItems]) layout reliable
  have primed := cleared.primes ctrl rfl reliable ⟨rfl, rfl⟩ room
  exact primed.quiet fun x m waiting => if_pos prepared

/-- Up to DMA_SUBMIT's calls, every answer ok (R332, R335). -/
theorem comes_setUp {s : State} {pf cc : Word} {provider : Bool} {pos : Nat × Nat} {as : List Bool} (start : AtStart s)
    (layout : DefaultLayout s) (reliable : BusReliable s) (launched : launchRefusal s.params = none)
    (unconfigured : s.ctx.state = .unconfigured) (initDone : s.ctx.initDone = true) (resolved : s.ctx.resolved = true)
    (bundle : Bundles s.ctx.profile provider pos) (permitted : Permitted pos) (fits : geometryOk pf cc s.ctx.region.size = true)
    (rxIdle : s.dmaRx.phase = .idle) (txIdle : s.dmaTx.phase = .idle)
    (room : s.fifo.tx.length + s.params.dreqTx + cc.toNat ≤ s.params.fifoDepth)
    (answers : s.inputs.answers = true :: true :: true :: true :: clockAnswers provider as) :
    exec (.buffersSetup pf cc) s = exec (.buffersSetup pf cc) (s.withGeometry pf cc) ∧
      Comes true (.buffersSetup pf cc) (s.withGeometry pf cc) submitItems (s.setUp pf cc provider pos as) := by
  obtain ⟨begun, n, prepared⟩ := reached_channelsPrepared start unconfigured initDone fits rxIdle txIdle answers rfl
    (buffersSeq_default layout bundle permitted cc)
  rw [channelsPrepared_eq] at prepared
  have cleared := prepared.comes.registersCleared rfl (hasAccess_clockItems (rest := registersItems ..) rfl) reliable
  have guarded := cleared.quiet (t := State.registersCleared _) fun _ _ _ => if_pos resolved
  have clocked := guarded.clockSetUp rfl rfl rfl
  rw [Nat.add_assoc] at room
  refine ⟨begun, ?_⟩
  cases provider with
  | true =>
    have registers := clocked.registersUp rfl layout reliable launched rfl rfl room
    rwa [registersUp_eq] at registers
  | false =>
    have registers := clocked.registersUp rfl layout reliable launched rfl rfl room
    rwa [registersUp_eq] at registers

/-! ## DMA_SUBMIT's calls in it (R294, R298, R332) -/

/-- `v` with both submissions accepted and both transfers issued, `as` the answers left (R294, R298). -/
def State.transfersIssued (v : State) (as : List Bool) : State :=
  { v with
    dmaRx := { v.dmaRx with phase := .running }
    dmaTx := { v.dmaTx with phase := .running }
    traces := { v.traces with
      events := v.traces.events ++ [.submit .rx true, .submit .tx true, .issuePending .rx, .issuePending .tx] }
    inputs := { v.inputs with answers := as } }

/-- `v` with RX's submission refused, or RX's accepted and TX's, the `second`, refused (R333). -/
def State.submissionRefused (v : State) (second : Bool) (as : List Bool) : State :=
  { v with
    dmaRx := if second then { v.dmaRx with phase := .submitted } else v.dmaRx
    traces := { v.traces with
      events := v.traces.events ++ if second then [.submit .rx true, .submit .tx false] else [.submit .rx false] }
    inputs := { v.inputs with answers := as } }

section
variable {clean : Bool} {i : Instr} {s v : State} {as : List Bool} (here : Comes clean i s submitItems v) (ctrl : cmdAgent i = .ctrl)
  (rx : v.dmaRx.phase = .prepared)
include here ctrl rx

/-- Every call accepted, the command ends (R294, R335). -/
theorem Comes.submits (tx : v.dmaTx.phase = .prepared) (answers : v.inputs.answers = true :: true :: as) :
    ∃ n x, Drift.Flags clean x ∧
      execFor i (n + 1) s = .next (endCommand (operandWords i) .ok (((v.transfersIssued as).drifted x).entering .configured)) := by
  obtain ⟨n, x, flags, here⟩ := here
  have rxIn := (here.done rfl (access_submit_accepted (v := v.drifted x) answers .rx (unwind := true))).goes ctrl rfl
  have txIn := (rxIn.done rfl (access_submit_accepted rfl .tx (unwind := true))).goes ctrl rfl
  have rxRuns := (txIn.done rfl (access_issue _ .rx)).goes ctrl rfl
  have ended := (rxRuns.done rfl (access_issue _ .tx)).enters
  have runs (c : Channel) : issueChannel { c with phase := .submitted } = { c with phase := .running } := issueChannel_submitted rfl
  have rxSubmits : submitChannel v.dmaRx = { v.dmaRx with phase := .submitted } := submitChannel_prepared rx
  have txSubmits : submitChannel v.dmaTx = { v.dmaTx with phase := .submitted } := submitChannel_prepared tx
  refine ⟨_, x, flags, ended.trans ?_⟩
  congr 3
  simp [State.calledOn, State.notedOn, State.called, logEvent, State.setDmaRx, State.setDmaTx, State.setTraces, rxSubmits, txSubmits, runs,
    State.drifted, State.transfersIssued]

/-- A refused submission: both channels are torn down next (R333). -/
theorem Comes.submission_refused {second : Bool} (answers : v.inputs.answers = (if second then [true, false] else [false]) ++ as) :
    ∃ n x, Done i s (n + 1) [.terminate .tx, .terminate .rx, .ret .submit] ((v.submissionRefused second as).drifted x) := by
  obtain ⟨n, x, -, here⟩ := here
  cases second with
  | false =>
    exact ⟨_, x, here.replaced rfl (access_submit_refused (v := v.drifted x) answers .rx (unwind := true))⟩
  | true =>
    have rxIn := (here.done rfl (access_submit_accepted (v := v.drifted x) (as := false :: as) answers .rx (unwind := true))).goes ctrl rfl
    have refused := rxIn.replaced rfl (access_submit_refused rfl .tx (unwind := true))
    have rxSubmits : submitChannel v.dmaRx = { v.dmaRx with phase := .submitted } := submitChannel_prepared rx
    refine ⟨n + 1, x, (congrArg (Done i s (n + 1 + 1) (submitFailed true)) ?_).mp refused⟩
    simp [State.calledOn, State.called, State.setDmaRx, rxSubmits, State.drifted, State.submissionRefused]

end

/-! ## The three profiles (R212) -/

/-- The slot positions of a profile id (R212). -/
def slotPositions (p : Params) (id : BitVec 8) : Nat × Nat :=
  if id = 0#8 then p.posDefault else if id = 1#8 then p.posShifted else p.posBcp

theorem bundles_table (p : Params) {id : BitVec 8} (known : id.toNat < 3) :
    Bundles (profileBundle p id) (decide (id = 2#8)) (slotPositions p id) := by
  by_cases provider : id = 2#8
  · subst provider
    exact bundles_bcp p
  · have not_two : id.toNat ≠ 2 := fun e => provider (BitVec.eq_of_toNat_eq e)
    have slave : id.toNat < 2 := by omega
    have positions : slotPositions p id = if id = 0#8 then p.posDefault else p.posShifted := by
      obtain rfl | rfl : id = 0#8 ∨ id = 1#8 := by
        simp only [← BitVec.toNat_inj, BitVec.toNat_ofNat]
        omega
      · rfl
      · rfl
    rw [decide_eq_false provider, positions]
    exact bundles_slave p slave

theorem permitted_table {p : Params} (launched : launchRefusal p = none) (id : BitVec 8) : Permitted (slotPositions p id) := by
  obtain ⟨default, ⟨-, shifted⟩, bcp⟩ := positions_of_launch launched
  unfold slotPositions
  split
  · exact default
  · split
    · exact shifted
    · exact bcp

/-- The answers BUFFERS_SETUP takes before DMA_SUBMIT's calls. -/
theorem replicate_clockAnswers (id : BitVec 8) (left : List Bool) :
    List.replicate (if id = 2#8 then 6 else 4) true ++ left = true :: true :: true :: true :: clockAnswers (decide (id = 2#8)) left := by
  by_cases provider : id = 2#8
  · rw [if_pos provider, decide_eq_true provider]; rfl
  · rw [if_neg provider, decide_eq_false provider]; rfl

theorem answersOkFor_listed {s : State} (ok : AnswersOkFor 8 s) (id : BitVec 8) :
    ∃ left, s.inputs.answers = List.replicate (if id = 2#8 then 6 else 4) true ++ (true :: true :: left) := by
  obtain ⟨left, answers⟩ : List.replicate 8 true <+: s.inputs.answers := by simpa [AnswersOkFor] using ok
  by_cases provider : id = 2#8
  · exact ⟨left, by rw [if_pos provider, ← answers]; rfl⟩
  · exact ⟨true :: true :: left, by rw [if_neg provider, ← answers]; rfl⟩

/-! ## No beat (R380, R381) -/

theorem beatEnabled_rx_empty {s : State} (empty : s.fifo.rx = []) : beatEnabled .rx s = false := by
  simp [beatEnabled, empty]

theorem beatEnabled_tx_filled {s : State} (filled : dreqTxLevel s ≤ s.fifo.tx.length) : beatEnabled .tx s = false := by
  simp [beatEnabled]
  omega

/-- The TX request level that CONFIGURE writes (R221, R381). -/
theorem dreqVal_txLevel {p : Params} (launched : launchRefusal p = none) :
    (fieldGet bcmDreq.tx (dreqVal bcmDreq p)).toNat = p.dreqTx := by
  obtain ⟨rx, tx, panicRx, panicTx, -, -⟩ := levels_of_launch launched
  rw [dreqVal_eq rx tx panicRx panicTx, bcmDreq, fieldGet_toNat (by decide), BitVec.extractLsb'_toNat, BitVec.toNat_ofNat,
    Nat.shiftRight_eq_div_pow]
  omega

/-- The state a command ends in after both teardowns, by the two answers (R296, R297). -/
theorem endCommand_tornDown (v : State) (n : Nat) (c : Code) (a b : Bool) (rest as : List Bool) :
    endCommand n c ((v.tornDown .tx rest a).tornDown .rx as b) =
      { v with
        dmaRx := if b then syncChannel v.dmaRx else v.dmaRx
        dmaTx := if a then syncChannel v.dmaTx else v.dmaTx
        ctx := { v.ctx with result := c }
        ctrl := ctrlPast v.ctrl n
        traces := { v.traces with
          events := v.traces.events ++ [.terminateAsync .tx a] ++ (if a then [.synchronize .tx] else []) ++
            [.terminateAsync .rx b] ++ (if b then [.synchronize .rx] else []) }
        inputs := { v.inputs with answers := as } } := by
  cases a <;> cases b <;>
    simp [endCommand, ctrlPast, State.tornDown, State.terminateRefused, State.notedOn, State.called, logEvent,
      State.setCtrl, State.setCtx, State.setDmaRx, State.setDmaTx, State.setTraces]

/-- A command that waits to tear both channels down and return (R333). -/
theorem teardowns_return {i : Instr} {v : State} {m : Nat} {c : Code} {a b : Bool} {as : List Bool} (ctrl : cmdAgent i = .ctrl)
    (answers : v.inputs.answers = a :: b :: as) :
    execQuiesced i (2 + a.toNat + b.toNat) (v.paused (m + 1) [.terminate .tx, .terminate .rx, .ret c]) =
      .next (endCommand (operandWords i) c ((v.tornDown .tx (b :: as) a).tornDown .rx as b)) := by
  have torn := (Reached.resumed ctrl v m [.terminate .tx, .terminate .rx, .ret c]).teardowns
    (t := endCommand (operandWords i) c ((v.tornDown .tx (b :: as) a).tornDown .rx as b)) ctrl answers fun _ _ => rfl
  rwa [show 1 + a.toNat + (1 + b.toNat) = 2 + a.toNat + b.toNat by omega] at torn

theorem modeWord_decide (id : BitVec 8) : modeWord (decide (id = 2#8)) = if id = 2#8 then 0x0010FC20#32 else 0x00B0FC20#32 := by
  by_cases provider : id = 2#8
  · rw [decide_eq_true provider, if_pos provider]; rfl
  · rw [decide_eq_false provider, if_neg provider]; rfl

/-- Settles O39: the bring-up to DMA_SUBMIT's calls, then both accepted, or one refused and both channels torn down. -/
theorem buffersSetupCompletes : Obligations.BuffersSetupCompletes := by
  intro s pf cc id start layout reliable launched unconfigured initDone resolved known profile fits rxIdle txIdle rxEmpty _ room base half
    cfg rxDesc txDesc pos fmt prepared
  have bundle : Bundles s.ctx.profile (decide (id = 2#8)) (slotPositions s.params id) := profile ▸ bundles_table s.params known
  have upTo {left : List Bool} (answers : s.inputs.answers = List.replicate (if id = 2#8 then 6 else 4) true ++ left) :=
    comes_setUp start layout reliable launched unconfigured initDone resolved bundle (permitted_table launched id) fits rxIdle txIdle room
      (answers.trans (replicate_clockAnswers id left))
  have config d : slaveCfgOf s.params d = cfg d := slaveCfgOf_default layout d
  have rx_desc : descOf s.params (geometryOf s.ctx.region.phys pf cc) .rx = rxDesc := congrArg (Desc.mk _ _ _) BEq.comm
  have tx_desc : descOf s.params (geometryOf s.ctx.region.phys pf cc) .tx = txDesc := congrArg (Desc.mk _ _ _) BEq.comm
  have events : clockEvents s (decide (id = 2#8)) (preparedEvents s pf cc) = s.traces.events ++ prepared := by
    by_cases provider : id = 2#8 <;> simp [provider, clockEvents, preparedEvents, prepared, config, rx_desc, tx_desc]
  refine ⟨fun ok => ?_, fun second a b as answers => ?_⟩
  · obtain ⟨left, answers⟩ := answersOkFor_listed ok id
    obtain ⟨begun, here⟩ := upTo answers
    obtain ⟨n, x, flags, run⟩ := here.submits rfl rfl rfl rfl
    obtain ⟨s1, first, others⟩ := execFor_first run
    obtain ⟨txerr, rxerr⟩ := flags rfl
    refine ⟨n, s1, _, { x.inputs with answers := left }, x.syncW, x.syncCnt, begun.trans first, others, ?_, beatEnabled_rx_empty rxEmpty,
      beatEnabled_tx_filled ?_⟩
    · obtain ⟨rx, tx, panicRx, panicTx, -, -⟩ := levels_of_launch launched
      simp only [operandWords, endCommand, State.entering, State.drifted, State.transfersIssued, State.setUp, State.setCtx, State.setCtrl,
        CsA.flagged, CsA.thresholds, txerr, rxerr, config, rx_desc, tx_desc, events, modeWord_decide,
        dreqVal_eq rx tx panicRx panicTx, decide_eq_true_eq, clearsAsked, true_and]
      rfl
    · show (fieldGet s.params.regmap.dreq.tx (dreqVal bcmDreq s.params)).toNat ≤
        (s.fifo.tx ++ List.replicate (s.params.dreqTx + cc.toNat) 0#32).length
      rw [show s.params.regmap = bcm2835 from layout, show bcm2835.dreq = bcmDreq from rfl, dreqVal_txLevel launched,
        List.length_append, List.length_replicate]
      omega
  · obtain ⟨begun, here⟩ := upTo (List.append_assoc _ _ _ ▸ answers)
    obtain ⟨n, x, refused⟩ := here.submission_refused rfl rfl rfl
    obtain ⟨m, run⟩ := refused.waits rfl
    obtain ⟨s1, first, others⟩ := execFor_first run
    refine ⟨n, s1, _, _, begun.trans first, others, ?_, ?_, ?_, unconfigured, teardowns_return rfl rfl, ?_⟩
    · rw [← config, ← rx_desc]
      cases second <;> rfl
    · rw [← config, ← tx_desc]
      rfl
    · rw [← events]
      cases second <;> rfl
    · refine (endCommand_tornDown _ 2 .submit a b _ as).trans ?_
      cases second <;> rfl

end Sys2Proof.Machine
end

section
/-! SUPPORT. The active index against the half the callback channel transfers (R320, R382, R384): what each step of an agent other than
CTRL makes of it: O60. -/

namespace Sys2Proof.Machine

/-- The index, once the channel's pending completions are delivered, names the half of the descriptor's two periods the channel is in. -/
def TracksHalf (x : Desc) (index : Bool) (c : Channel) : Prop :=
  x.cb = true ∧ 0 < x.periodLen.toNat ∧ x.periodLen.toNat % 4 = 0 ∧ x.bufLen.toNat = 2 * x.periodLen.toNat ∧
    c.pos.toNat < x.bufLen.toNat ∧ c.pos.toNat % 4 = 0 ∧ ((if index then 1 else 0) + c.pending) % 2 = channelHalf x c

theorem indexTracks_iff {s : State} :
    IndexTracks s ↔
      s.params.delivery = .exact ∧
        ∃ x, (s.chan s.params.callbackDir).desc = some x ∧ TracksHalf x s.ctx.bufIdx (s.chan s.params.callbackDir) := Iff.rfl

/-- Where a position of two periods lies: its half, and how far it is into it. -/
theorem half_cases {n period : Nat} (within : n < 2 * period) :
    (n < period ∧ n / period = 0 ∧ n % period = n) ∨ (period ≤ n ∧ n / period = 1 ∧ n % period = n - period) := by
  rcases Nat.lt_or_ge n period with first | second
  · exact .inl ⟨first, Nat.div_eq_of_lt first, Nat.mod_eq_of_lt first⟩
  · refine .inr ⟨second, Nat.div_eq_of_lt_le (by omega) (by omega), ?_⟩
    rw [Nat.mod_eq_sub_mod second, Nat.mod_eq_of_lt (by omega)]

/-- The next word ends a period exactly where it lies in the other half, back at the start behind the last one (R382). -/
theorem next_half {n period : Nat} (words : period % 4 = 0) (aligned : n % 4 = 0) (within : n < 2 * period) :
    (if n + 4 = 2 * period then 0 else n + 4) / period =
      if (n + 4) % period = 0 then 1 - n / period else n / period := by
  by_cases last : n + 4 = 2 * period
  · rcases half_cases within with ⟨first, half, -⟩ | ⟨-, half, -⟩
    · omega
    · rw [if_pos last, last, Nat.mul_mod_left, half, if_pos rfl, Nat.zero_div]
  · rw [if_neg last]
    rcases half_cases within with ⟨first, half, -⟩ | ⟨second, half, -⟩ <;>
      rcases half_cases (n := n + 4) (period := period) (by omega) with ⟨first', half', into⟩ | ⟨second', half', into⟩
    · rw [half, half', into, if_neg (by omega)]
    · rw [half, half', into, if_pos (by omega)]
    · omega
    · rw [half, half', into, if_neg (by omega)]

section
variable {x : Desc} {index : Bool} {c : Channel} (h : TracksHalf x index c)
include h

/-- Only the position and the completions of the channel matter. -/
theorem TracksHalf.congr {c' : Channel} (pos : c'.pos = c.pos) (pending : c'.pending = c.pending) : TracksHalf x index c' := by
  unfold TracksHalf channelHalf
  rw [pos, pending]
  exact h

/-- A completion taken turns the index (R320). -/
theorem TracksHalf.taken {c' : Channel} (some_pending : 0 < c.pending) (pos : c'.pos = c.pos) (pending : c'.pending = c.pending - 1) :
    TracksHalf x (!index) c' := by
  obtain ⟨callback, period, words, halves, within, aligned, tracks⟩ := h
  refine ⟨callback, period, words, halves, pos ▸ within, pos ▸ aligned, ?_⟩
  rw [channelHalf, pos, ← channelHalf, ← tracks, pending]
  cases index <;> simp <;> omega

/-- With none pending the index is the half. -/
theorem TracksHalf.none_pending (none : c.pending = 0) : (if index then 1 else 0) = channelHalf x c := by
  obtain ⟨-, -, -, -, -, -, tracks⟩ := h
  rw [← tracks, none]
  cases index <;> rfl

/-- ADVANCE over a period's end enters the other half and makes one completion pending; short of it, neither (R382, R384). -/
theorem TracksHalf.advance {p : Params} (exact_delivery : p.delivery = .exact) : TracksHalf x index (advanceChannel p x c) := by
  obtain ⟨callback, period, words, halves, within, aligned, tracks⟩ := h
  have small := x.bufLen.isLt
  have next : (c.pos + 4#32).toNat = c.pos.toNat + 4 := by
    rw [BitVec.toNat_add, BitVec.toNat_ofNat]
    omega
  have pos : (advanceChannel p x c).pos.toNat = if c.pos.toNat + 4 = x.bufLen.toNat then 0 else c.pos.toNat + 4 := by
    have wraps : c.pos + 4#32 = x.bufLen ↔ c.pos.toNat + 4 = x.bufLen.toNat := by rw [← next, BitVec.toNat_inj]
    simp only [advanceChannel, wraps]
    split
    · rfl
    · exact next
  have pending : (advanceChannel p x c).pending =
      if (c.pos.toNat + 4) % x.periodLen.toNat = 0 then c.pending + 1 else c.pending := by
    simp [advanceChannel, pendingAfter, next, callback, exact_delivery]
  refine ⟨callback, period, words, halves, ?_, ?_, ?_⟩
  · rw [pos]; split <;> omega
  · rw [pos]; split <;> omega
  · unfold channelHalf at tracks ⊢
    rw [pos, pending, halves, next_half words aligned (halves ▸ within), ← tracks]
    by_cases ends : (c.pos.toNat + 4) % x.periodLen.toNat = 0
    · simp only [ends, if_true]; omega
    · simp only [ends, if_false]

end

/-- What a step of another agent makes of the index and of each channel's descriptor, position and completions: nothing, ADVANCE of a
channel, or the taking of a completion (R320, R382). -/
theorem OtherStep.index_cases {mv : Move} {s t : State} (h : OtherStep s mv t) :
    (t.ctx.bufIdx = s.ctx.bufIdx ∧
        ∀ d, ((t.chan d).desc = (s.chan d).desc ∧ (t.chan d).pos = (s.chan d).pos ∧ (t.chan d).pending = (s.chan d).pending) ∨
          ∃ x, (s.chan d).desc = some x ∧ t.chan d = advanceChannel s.params x (s.chan d)) ∨
      (completionPending s = true ∧ t = takeCompletion s) := by
  cases h with
  | callback pending => exact .inr ⟨pending, rfl⟩
  | stays => exact .inl ⟨rfl, fun _ => .inl ⟨rfl, rfl, rfl⟩⟩
  | notified | indexRead | store | clock | envTxw | envRxr => exact .inl ⟨rfl, fun d => .inl (by cases d <;> exact ⟨rfl, rfl, rfl⟩)⟩
  | slot => exact .inl ⟨by rw [slotEffect_ctx], fun d => .inl (by rw [slotEffect_chan]; exact ⟨rfl, rfl, rfl⟩)⟩
  | quiesce e => exact .inl ⟨by rw [quiesceStep_ctx], fun d => .inl (by cases d <;> cases e <;> exact ⟨rfl, rfl, rfl⟩)⟩
  | envError e => exact .inl ⟨by rw [envErrorStep_ctx], fun d => .inl (by cases d <;> cases e <;> exact ⟨rfl, rfl, rfl⟩)⟩
  | beatRx x _ _ _ desc =>
    refine .inl ⟨rfl, fun d => ?_⟩
    cases d
    · exact .inr ⟨x, desc, rfl⟩
    · exact .inl ⟨rfl, rfl, rfl⟩
  | beatTx x _ desc =>
    refine .inl ⟨rfl, fun d => ?_⟩
    cases d
    · exact .inl ⟨rfl, rfl, rfl⟩
    · exact .inr ⟨x, desc, rfl⟩

theorem OtherStep.indexTracks {mv : Move} {s t : State} (h : OtherStep s mv t) (params : t.params = s.params) (tracks : IndexTracks s) :
    IndexTracks t := by
  obtain ⟨exact_delivery, x, desc, half⟩ := indexTracks_iff.mp tracks
  rw [indexTracks_iff, params]
  refine ⟨exact_delivery, x, ?_⟩
  rcases h.index_cases with ⟨index, chan⟩ | ⟨pending, rfl⟩
  · rw [index]
    rcases chan s.params.callbackDir with ⟨same, pos, pending⟩ | ⟨y, descY, advanced⟩
    · exact ⟨same.trans desc, half.congr pos pending⟩
    · obtain rfl : y = x := Option.some.inj (descY.symm.trans desc)
      rw [advanced]
      exact ⟨desc, half.advance exact_delivery⟩
  · rw [takeCompletion_chan, takeCompletion_ctx]
    exact ⟨desc, half.taken (by simpa [completionPending] using pending) rfl (if_pos rfl)⟩

/-- Settles O60: the taking of a completion turns the index and takes one off the count, ADVANCE enters the other half exactly where it
adds one, and nothing else another agent does touches the index, the count or the position. -/
theorem indexTracking : Obligations.IndexTracking := by
  intro s t e hmv tracks
  have tracked : IndexTracks t := (agentStep_other hmv (step_next e)).indexTracks (step_invariantsKept e).params tracks
  refine ⟨tracked, fun x desc none => ?_⟩
  obtain ⟨-, y, descY, half⟩ := indexTracks_iff.mp tracked
  obtain rfl : y = x := Option.some.inj (descY.symm.trans desc)
  exact half.none_pending none

end Sys2Proof.Machine
end

section
/-! SUPPORT. The steps of the serial engine, the DMA data mover, the environment and the host on the default layout (R371 to R374, R380 to
R383, R395, R46): O46 to O50. -/

namespace Sys2Proof.Machine

/-! ## The clock and frame conditions (R74) -/

/-- `clock_running` on the bits of the default layout (R53, R74). -/
theorem clockRunning_iff {s : State} (layout : DefaultLayout s) :
    clockRunning s = true ↔
      s.pr.mode.getLsbD 28 = false ∧ (if s.pr.mode.getLsbD 23 = false then s.clkEnabled = true else s.params.codecClock = true) := by
  unfold clockRunning
  rw [show s.params.regmap = bcm2835 from layout]
  show (!s.pr.mode.getLsbD 28 && (if s.pr.mode.getLsbD 23 then s.params.codecClock else s.clkEnabled)) = true ↔ _
  cases s.pr.mode.getLsbD 23 <;> simp

/-- A SLOT step is enabled on those bits (R74, R372). -/
theorem slotEnabled_iff {s : State} (layout : DefaultLayout s) :
    slotEnabled s = true ↔
      s.pr.mode.getLsbD 28 = false ∧ (if s.pr.mode.getLsbD 23 = false then s.clkEnabled = true else s.params.codecClock = true) ∧
        (s.pr.mode.getLsbD 21 = false ∨ s.params.codecClock = true) ∧ s.pr.cs.en = true ∧ s.pr.cs.stby = true := by
  have frame : fieldTest s.params.regmap.mode.fsm s.pr.mode = s.pr.mode.getLsbD 21 := by
    rw [show s.params.regmap = bcm2835 from layout]; rfl
  simp only [slotEnabled, frameRunning, frame, Bool.and_eq_true, clockRunning_iff layout, Bool.or_eq_true, Bool.not_eq_true', and_assoc]

/-! ## PCM_CLOCK (R371) -/

/-- One PCM clock of the pipelines, field by field (R75, R76). -/
theorem pipeTick_eq (p : Pipe) :
    pipeTick p = { p with
      clrTx := if p.clrTx = .zero then .one else .none
      clrRx := if p.clrRx = .zero then .one else .none
      syncCnt := if p.syncCnt < 2 then p.syncCnt + 1 else p.syncCnt
      syncR := if p.syncCnt = 1 then p.syncW else p.syncR } := by
  have clear (c : ClearStage) : clearTick c = if c = .zero then .one else .none := by cases c <;> rfl
  have echo : (p.syncCnt < 2 ∧ p.syncCnt + 1 = 2) ↔ p.syncCnt = 1 := by omega
  simp only [pipeTick, clear, echo]

/-- Settles O46: the move is enabled while the bit clock runs, and ticks each pipeline once. -/
theorem agentStep_pcmClock : Obligations.PcmClock := by
  intro s layout
  refine ⟨fun stopped => if_neg (mt (clockRunning_iff layout).mp stopped), fun running => ?_⟩
  refine (if_pos ((clockRunning_iff layout).mpr running)).trans (congrArg _ ?_)
  unfold pcmClock
  rw [pipeTick_eq]
  rfl

/-! ## SLOT (R372 to R374) -/

/-- The transmit half of a SLOT step: nothing with TXON = 0, else the word at the FIFO's head, or a draw and both error flags (R372). -/
def State.transmitted (s : State) : State :=
  { s with
    fifo := { s.fifo with tx := if s.pr.cs.txon = true then s.fifo.tx.drop 1 else s.fifo.tx }
    pr := { s.pr with
      cs := { s.pr.cs with txerr := if s.pr.cs.txon = true ∧ s.fifo.tx = [] then true else s.pr.cs.txerr }
      intstc := s.pr.intstc ||| (if s.pr.cs.txon = true ∧ s.fifo.tx = [] then 0x4#32 else 0#32) }
    traces := { s.traces with
      txLine := s.traces.txLine ++
        (if s.pr.cs.txon = true then [(s.pipe.slotPhase, s.fifo.tx.headD (drawOf s.inputs).1)] else []) }
    inputs := if s.pr.cs.txon = true ∧ s.fifo.tx = [] then (drawOf s.inputs).2 else s.inputs }

/-- The receive half: nothing with RXON = 0, else the codec's word, tagged, into the FIFO, or both error flags (R372, R374). -/
def State.received (s : State) : State :=
  { s with
    fifo := { s.fifo with
      rx := if s.pr.cs.rxon = true ∧ s.fifo.rx.length < s.params.fifoDepth then
        s.fifo.rx ++ [⟨(rxWordOf s.inputs).1, s.pipe.slotPhase⟩] else s.fifo.rx }
    pr := { s.pr with
      cs := { s.pr.cs with rxerr := if s.pr.cs.rxon = true ∧ s.params.fifoDepth ≤ s.fifo.rx.length then true else s.pr.cs.rxerr }
      intstc := s.pr.intstc ||| (if s.pr.cs.rxon = true ∧ s.params.fifoDepth ≤ s.fifo.rx.length then 0x8#32 else 0#32) }
    inputs := if s.pr.cs.rxon = true then (rxWordOf s.inputs).2 else s.inputs }

section
variable {s : State} (layout : DefaultLayout s)
include layout

theorem slotTx_half : (if s.pr.cs.txon then slotTx s else s) = s.transmitted := by
  have frame : slotTx s = { s with
      fifo := (slotTx s).fifo, pr := (slotTx s).pr, traces := (slotTx s).traces, inputs := (slotTx s).inputs } := by
    unfold slotTx; split <;> rfl
  unfold State.transmitted
  by_cases on : s.pr.cs.txon = true
  · rw [if_pos on, frame, slotTx_fifo, slotTx_pr, slotTx_traces, slotTx_inputs, setTxErr, show s.params.regmap = bcm2835 from layout]
    by_cases empty : s.fifo.tx = []
    · simp only [if_pos on, if_pos empty, if_pos (And.intro on empty)]
      rfl
    · have word : ¬(s.pr.cs.txon = true ∧ s.fifo.tx = []) := fun h => empty h.2
      simp only [if_pos on, if_neg empty, if_neg word, BitVec.or_zero]
  · have off : ¬(s.pr.cs.txon = true ∧ s.fifo.tx = []) := fun h => on h.1
    simp only [if_neg on, if_neg off, BitVec.or_zero, List.append_nil]

theorem slotRx_half : (if s.pr.cs.rxon then slotRx s else s) = s.received := by
  have frame : slotRx s = { s with fifo := (slotRx s).fifo, pr := (slotRx s).pr, inputs := (slotRx s).inputs } := by
    unfold slotRx; dsimp only; split <;> rfl
  unfold State.received
  by_cases on : s.pr.cs.rxon = true
  · rw [if_pos on, frame, slotRx_fifo, slotRx_pr, slotRx_inputs, setRxErr_default layout]
    by_cases room : s.fifo.rx.length < s.params.fifoDepth
    · have fits : ¬(s.pr.cs.rxon = true ∧ s.params.fifoDepth ≤ s.fifo.rx.length) := fun h => h.2.not_gt room
      simp only [if_pos on, if_pos room, if_pos (And.intro on room), if_neg fits, BitVec.or_zero]
    · have full : s.pr.cs.rxon = true ∧ s.params.fifoDepth ≤ s.fifo.rx.length := ⟨on, Nat.le_of_not_lt room⟩
      have no_room : ¬(s.pr.cs.rxon = true ∧ s.fifo.rx.length < s.params.fifoDepth) := fun h => room h.2
      simp only [if_pos on, if_neg room, if_neg no_room, if_pos full, State.setPr_pr]
  · have off {p : Prop} : ¬(s.pr.cs.rxon = true ∧ p) := fun h => on h.1
    simp only [if_neg on, if_neg off, BitVec.or_zero]

/-- A SLOT step is its two halves one after the other, and the other phase. -/
theorem slotEffect_eq :
    slotEffect s = { s.transmitted.received with
      pipe := { s.pipe with slotPhase := if s.pipe.slotPhase = .ch1 then .ch2 else .ch1 } } := by
  have receive : (if s.pr.cs.rxon then slotRx s.transmitted else s.transmitted) = s.transmitted.received :=
    slotRx_half (s := s.transmitted) layout
  have other (c : Slot) : otherSlot c = if c = .ch1 then .ch2 else .ch1 := by cases c <;> rfl
  rw [slotEffect, slotTx_half layout, receive, other]
  rfl

end

/-- Settles O47: off, a layout the model has not, and the two halves of the step. -/
theorem slot : Obligations.Slot := by
  intro s layout enabled empty full inp1
  refine ⟨fun off => if_neg (mt (slotEnabled_iff layout).mp off),
    fun on bad => agentStep_slot_badLayout layout ((slotEnabled_iff layout).mpr on) bad, fun on good => ?_⟩
  have effect : agentStep .slot s = .next (slotEffect s) := by
    simp only [agentStep, if_pos ((slotEnabled_iff layout).mpr on), slotStep, if_pos ((layoutOk_iff layout).mpr good)]
  rw [effect, slotEffect_eq layout]
  rfl

/-! ## Beats (R380 to R382) -/

/-- A DMA_RX beat is enabled on the request level of the default layout (R55, R380). -/
theorem beatEnabled_rx_iff {s : State} {x : Desc} (layout : DefaultLayout s) (desc : s.dmaRx.desc = some x) :
    beatEnabled .rx s = true ↔
      s.dmaRx.phase = .running ∧ s.pr.cs.dmaen = true ∧ s.pr.cs.en = true ∧ s.pr.cs.stby = true ∧
        s.pr.dreq.toNat % 128 < s.fifo.rx.length := by
  have level : dreqRxLevel s = s.pr.dreq.toNat % 128 := by
    rw [dreqRxLevel, show s.params.regmap = bcm2835 from layout]
    exact (fieldGet_toNat (by decide) _).trans (BitVec.extractLsb'_toNat ..)
  simp [beatEnabled, requestsOn, desc, level, and_assoc]

/-- A DMA_TX beat is enabled on the request level of the default layout while the FIFO has room (R55, R381). -/
theorem beatEnabled_tx_iff {s : State} {x : Desc} (layout : DefaultLayout s) (desc : s.dmaTx.desc = some x) :
    beatEnabled .tx s = true ↔
      s.dmaTx.phase = .running ∧ s.pr.cs.dmaen = true ∧ s.pr.cs.en = true ∧ s.pr.cs.stby = true ∧
        s.fifo.tx.length < s.pr.dreq.toNat / 2 ^ 8 % 128 ∧ s.fifo.tx.length < s.params.fifoDepth := by
  have level : dreqTxLevel s = s.pr.dreq.toNat / 2 ^ 8 % 128 := by
    rw [dreqTxLevel, show s.params.regmap = bcm2835 from layout, ← Nat.shiftRight_eq_div_pow]
    exact (fieldGet_toNat (by decide) _).trans (BitVec.extractLsb'_toNat ..)
  simp [beatEnabled, requestsOn, desc, level, and_assoc]

/-- ADVANCE, field by field (R382, R322). -/
theorem advanceChannel_eq (p : Params) (x : Desc) (c : Channel) :
    advanceChannel p x c = { c with
      pos := if c.pos + 4#32 = x.bufLen then 0#32 else c.pos + 4#32
      pending :=
        if (c.pos + 4#32).toNat % x.periodLen.toNat = 0 ∧ x.cb = true then (if p.delivery = .exact then c.pending + 1 else 1)
        else c.pending } := by
  unfold advanceChannel pendingAfter
  cases p.delivery <;> rfl

section
variable {s : State} {d : Dir} {x : Desc} (sound : RegionSound s) (desc : (s.chan d).desc = some x)
include sound desc

/-- A beat of a descriptor in the region is inside it (R102). -/
theorem RegionSound.beat_inside : inRegion s (beatAddr x (s.chan d)) 4 = true := by
  obtain ⟨bound, -, fits, -⟩ := sound
  exact inRegion_iff.mpr ((fits d x desc).2.beat bound)

/-- Its bus address does not wrap (R336). -/
theorem RegionSound.beatAddr_toNat : (beatAddr x (s.chan d)).toNat = x.base.toNat + (s.chan d).pos.toNat := by
  obtain ⟨bound, -, fits, -⟩ := sound
  obtain ⟨-, ⟨-, high⟩, -, -, within⟩ := fits d x desc
  rw [beatAddr, BitVec.toNat_add]
  omega

end

theorem agentStep_beat {s : State} {d : Dir} (enabled : beatEnabled d s = true) : agentStep (.beat d) s = beatStep d s :=
  if_pos enabled

theorem beatStep_rx {s : State} {x : Desc} {e : RxEntry} {rest : List RxEntry} (desc : s.dmaRx.desc = some x)
    (waiting : s.fifo.rx = e :: rest) (inside : inRegion s (beatAddr x s.dmaRx) 4 = true) :
    beatStep .rx s =
      .next (((s.setFifo { s.fifo with rx := rest }).setMem (memWrite s.mem (beatAddr x s.dmaRx).toNat 4 e.word)).setDmaRx
        (advanceChannel s.params x s.dmaRx)) := by
  simp only [beatStep, State.chan_rx, desc, beatRx, waiting]
  exact if_pos inside

theorem beatStep_tx {s : State} {x : Desc} (desc : s.dmaTx.desc = some x) (inside : inRegion s (beatAddr x s.dmaTx) 4 = true) :
    beatStep .tx s =
      .next ((s.setFifo { s.fifo with tx := s.fifo.tx ++ [memWord s.mem (beatAddr x s.dmaTx).toNat] }).setDmaTx
        (advanceChannel s.params x s.dmaTx)) := by
  simp only [beatStep, State.chan_tx, desc]
  exact if_pos inside

/-- The bytes of a word put together are the bytes it was put together of (R100). -/
theorem byteOf_wordOfBytes (b : Nat → Byte) {i : Nat} (bound : i < 4) : byteOf (wordOfBytes (b 0) (b 1) (b 2) (b 3)) i = b i := by
  apply BitVec.eq_of_getLsbD_eq
  intro j hj
  simp only [byteOf, wordOfBytes, BitVec.getLsbD_extractLsb', BitVec.getLsbD_append]
  interval_cases i
  · simp [hj, show j < 16 by omega]
  · simp [hj, show 8 + j < 16 by omega]
  · simp [hj]
  · simp [hj, show ¬24 + j < 16 by omega, show ¬24 + j - 16 < 8 by omega, show 24 + j - 16 - 8 = j by omega]

/-- Settles O48: the request condition, then the FIFO's head stored at the channel's address, which is inside, and ADVANCE. -/
theorem agentStep_beat_rx : Obligations.BeatRx := by
  intro s x layout canonical sound desc
  have enabled_iff := beatEnabled_rx_iff layout desc
  have addr : (beatAddr x s.dmaRx).toNat = x.base.toNat + s.dmaRx.pos.toNat := sound.beatAddr_toNat (d := .rx) desc
  refine ⟨fun off => if_neg (mt enabled_iff.mp off), fun running dmaen en stby e rest waiting level => ?_⟩
  have enabled := enabled_iff.mpr ⟨running, dmaen, en, stby, level⟩
  have moved := (agentStep_beat enabled).trans (beatStep_rx desc waiting (sound.beat_inside (d := .rx) desc))
  rw [addr, advanceChannel_eq] at moved
  refine ⟨_, moved, fun i bound => ?_, fun y apart => ?_, rfl⟩
  · refine (memByte_memWrite canonical _ _ _ _).trans ((if_pos (by omega)).trans ?_)
    rw [Nat.add_sub_cancel_left]
    rfl
  · exact (memByte_memWrite canonical _ _ _ _).trans (if_neg (by omega))

/-- Settles O49: the request condition, then the word at the channel's address, which is inside, and ADVANCE. -/
theorem agentStep_beat_tx : Obligations.BeatTx := by
  intro s x layout sound desc enabled
  have enabled_iff := beatEnabled_tx_iff layout desc
  have addr : (beatAddr x s.dmaTx).toNat = x.base.toNat + s.dmaTx.pos.toNat := sound.beatAddr_toNat (d := .tx) desc
  refine ⟨fun off => if_neg (mt enabled_iff.mp off), fun on => ?_⟩
  have moved := (agentStep_beat (enabled_iff.mpr on)).trans (beatStep_tx desc (sound.beat_inside (d := .tx) desc))
  rw [addr, advanceChannel_eq] at moved
  exact ⟨_, fun i bound => byteOf_wordOfBytes (fun k => memByte s.mem (x.base.toNat + s.dmaTx.pos.toNat + k)) bound, moved⟩

/-! ## QUIESCE, the environment and the host (R383, R395, R41, R46) -/

section
variable (s : State) (d : Dir)

theorem agentStep_quiesce :
    ((s.chan d).phase = .stopping → agentStep (.quiesce d) s = .next (s.setChan d { s.chan d with phase := .stopped })) ∧
      ((s.chan d).phase ≠ .stopping → agentStep (.quiesce d) s = .next s) :=
  ⟨fun stopping => if_pos (beq_iff_eq.mpr stopping), fun other => if_neg (mt beq_iff_eq.mp other)⟩

theorem agentStep_envError :
    ((s.chan d).phase = .running → agentStep (.envError d) s = .next (s.setChan d { s.chan d with err := true })) ∧
      ((s.chan d).phase ≠ .running → agentStep (.envError d) s = .next s) :=
  ⟨fun running => if_pos (beq_iff_eq.mpr running), fun other => if_neg (mt beq_iff_eq.mp other)⟩

end

/-- The two registers a host may find without a value (R41, R80). -/
theorem ctxValue_none_iff {c : Ctx} {r : CtxReg} :
    ctxValue c r = none ↔ (r = .lastRead ∧ c.lastRead = none) ∨ (r = .consIdx ∧ c.consIdx = none) := by
  cases r <;> simp [ctxValue]

/-- Settles O50: each move's condition, and the two registers without a value. -/
theorem quiesceEnvHost : Obligations.QuiesceEnvHost := by
  intro s layout
  have txw : s.params.regmap.int.txw = bcmInt.txw := by rw [show s.params.regmap = bcm2835 from layout]; rfl
  have rxr : s.params.regmap.int.rxr = bcmInt.rxr := by rw [show s.params.regmap = bcm2835 from layout]; rfl
  obtain ⟨stopsRx, keepsRx⟩ := agentStep_quiesce s .rx
  obtain ⟨stopsTx, keepsTx⟩ := agentStep_quiesce s .tx
  obtain ⟨errsRx, skipsRx⟩ := agentStep_envError s .rx
  obtain ⟨errsTx, skipsTx⟩ := agentStep_envError s .tx
  refine ⟨⟨stopsRx, keepsRx, stopsTx, keepsTx⟩, ⟨errsRx, skipsRx, errsTx, skipsTx⟩,
    ⟨fun low => ?_, fun high => ?_, fun high => ?_, fun low => ?_⟩, fun r unwritten => ?_, fun r written => ?_⟩
  · refine (if_pos (decide_eq_true low)).trans ?_
    rw [envTxwStep, txw]
    rfl
  · exact if_neg (by simpa [flagTxw] using high)
  · refine (if_pos (decide_eq_true high)).trans ?_
    rw [envRxrStep, rxr]
    rfl
  · exact if_neg (by simpa [flagRxr] using low)
  · simp only [agentStep, hostStep, ctxValue_none_iff.mpr unwritten]
  · obtain ⟨v, value⟩ := Option.ne_none_iff_exists'.mp (mt ctxValue_none_iff.mp written)
    simp only [agentStep, hostStep, value]

end Sys2Proof.Machine
end

section
/-! SUPPORT. Stops (R414 to R416): a recorded stop answers again, what a failing guard or access leaves of the command it stops, and the
launches that never step: O7. -/

namespace Sys2Proof.Machine

/-! ## A recorded stop (R414, R415) -/

section
variable {s : State} (clear : NoFault s)
include clear

/-- The first fault is alone in the fault set. -/
theorem settle_fault (f : Fault) : settle s (.fault f) = { faultState f s with faults := [f] } := by
  rw [settle, clear.1, List.nil_append]

theorem settle_ctrl_fault {f : Fault} {k m : Nat} (site : faultSite f = .ctrl k m) :
    settle s (.fault f) = { ctrlWork s with faults := [f] } := by
  rw [settle_fault clear, faultState_ctrl site]

theorem step_settle_fault (f : Fault) : step (settle s (.fault f)) = .fault f := by
  rw [settle_fault clear, faultState_frame]
  obtain ⟨-, refused, launched⟩ := clear
  exact step_faulted launched refused rfl

theorem step_settle_refused (r : Refusal) : step (settle s (.refused r)) = .refused r := by
  obtain ⟨-, -, launched⟩ := clear
  rw [settle, refusalState_frame]
  exact step_refused launched rfl

end

/-! ## What a stop keeps of a sequence (R12, R415) -/

section
variable {mi : Micro} {s t : State} (rest : List Micro)

theorem quietWork_act (acts : quiet mi s = .act t) : quietWork (mi :: rest) s = quietWork rest t := by rw [quietWork, acts]

theorem quietWork_guard {f : Fault} (fails : quiet mi s = .fault f) : quietWork (mi :: rest) s = s := by rw [quietWork, fails]

theorem quietWork_access (acc : isAccess mi = true) : quietWork (mi :: rest) s = s := by rw [quietWork, quiet_access acc]

end

/-! ## BUFFERS_SETUP stopped by DMA_PREPARE's guard (R291, R332, R415) -/

/-- A capture channel that is not IDLE fails DMA_PREPARE's guard behind the geometry registers. -/
theorem guardPrepare_busy {s : State} (start : AtStart s) (busy : s.dmaRx.phase ≠ .idle) (pf cc : Word) :
    quiet (.guardPrepare .rx) (s.withGeometry pf cc) = .fault (.illegalState (.ctrl s.ctrl.k 0) .dmaPrepare) := by
  have fails : ((s.dmaRx.phase == .idle) && true) = false := by simp [busy]
  rw [← ctrlSite_start start]
  exact guardThat_false fails _ _

section
variable {s : State} {pf cc : Word} (start : AtStart s) (unconfigured : s.ctx.state = .unconfigured) (initDone : s.ctx.initDone = true)
  (fits : geometryOk pf cc s.ctx.region.size = true)

include unconfigured initDone fits in
theorem commandBegin_buffersSetup : commandBegin (.buffersSetup pf cc) s = .run (s.withGeometry pf cc) (buffersSeq cc s) :=
  (if_pos ⟨unconfigured, initDone⟩).trans (if_pos fits)

variable (busy : s.dmaRx.phase ≠ .idle)
include start unconfigured initDone fits busy

theorem exec_buffersSetup_busy : exec (.buffersSetup pf cc) s = .fault (.illegalState (.ctrl s.ctrl.k 0) .dmaPrepare) := by
  rw [exec_eq_runCommand rfl, runCommand_begin start (commandBegin_buffersSetup unconfigured initDone fits)]
  exact microStep_guard (guardPrepare_busy start busy pf cc) _ _

/-- The stop keeps the geometry registers. -/
theorem ctrlWork_buffersSetup_busy (decodes : decodeFor .ctrl (ctrlWords s) = .ok (.buffersSetup pf cc)) :
    ctrlWork s = s.withGeometry pf cc :=
  (ctrlWork_begins decodes start (commandBegin_buffersSetup unconfigured initDone fits)).trans
    (quietWork_guard _ (guardPrepare_busy start busy pf cc))

end

/-! ## CLEAR_FIFOS stopped by F_BUS behind its timed-out poll (R192, R252, R415) -/

section
variable {i : Instr} {s : State} {e mask val : Word} {r : Reg} {rest : List Micro} (past : s.ctrl.m ≠ 0)
  (waits : s.ctrl.todo = .clearPoll e 0 :: .updRead r mask val :: rest)
include past waits

theorem exec_timedOut_fails (ctrl : cmdAgent i = .ctrl) (fails : BusFails s) : exec i s = .fault (busFault s r) := by
  rw [exec_goesOn ctrl past]
  exact microStep_passes_fails waits (pre := [.clearPoll e 0]) ⟨_, rfl, trivial⟩ (.updRead mask val) fails _

/-- The stop keeps the timeout counted. -/
theorem ctrlWork_timedOut (decodes : decodeFor .ctrl (ctrlWords s) = .ok i) : ctrlWork s = timeoutCounted s := by
  rw [ctrlWork_goesOn decodes past, waits, quietWork_act _ rfl, quietWork_access _ rfl]

end

/-! ## Launches that never step (R416) -/

/-- R416 items 3 and 5 to 7, in their order. -/
theorem launchRefusal_cases (p : Params) :
    launchRefusal p = some .relayLaunch ∨ launchRefusal p = some .positionLaunch ∨ launchRefusal p = some .levelLaunch ∨
      launchRefusal p = some .pollLaunch ∨ launchRefusal p = none := by
  unfold launchRefusal
  split_ifs <;> simp

/-- A launch that is not refused has no relay, a FIFO and a poll to make (R416 items 3, 6 and 7). -/
theorem relay_depth_polls_of_launch {p : Params} (launched : launchRefusal p = none) :
    p.relayEnabled = false ∧ p.fifoDepth ≠ 0 ∧ p.clearPollLimit ≠ 0 ∧ p.syncPollLimit ≠ some 0 := by
  unfold launchRefusal at launched
  split_ifs at launched with relay positions levels polls
  simp only [levelsOk, pollsOk, Bool.not_eq_true', Bool.not_eq_false, Bool.and_eq_true, bne_iff_ne] at levels polls
  exact ⟨Bool.eq_false_of_not_eq_true relay, levels.2, polls⟩

theorem step_launchRefused {s : State} {r : Refusal} (refused : launchRefusal s.params = some r) : step s = .refused r := by
  simp only [step, refused]

/-- Settles O7: the frames of the two settled states, the two commands' work before their stop, and R416's launches one by one. -/
theorem stopsForGood : Obligations.StopsForGood := by
  refine ⟨fun s f clear stops => ?_, fun s r clear stops => ?_,
    fun s pf cc clear moves start decodes unconfigured initDone fits busy => ?_,
    fun s i e mask val r rest clear moves past decodes waits may answer => ?_, fun s outside => ?_⟩
  · rw [stops]
    exact ⟨step_settle_fault clear f, faultState f s, settle_fault clear f, fun other => faultState_other other s,
      faultState_frame f s⟩
  · rw [stops]
    exact ⟨step_settle_refused clear r, refusalState r s, rfl, refusalState_frame r s⟩
  · have stops : step s = .fault (.illegalState (.ctrl s.ctrl.k 0) .dmaPrepare) :=
      ((stepRunsDecoded s clear).1 _ moves decodes).trans (exec_buffersSetup_busy start unconfigured initDone fits busy)
    refine ⟨stops, ?_⟩
    rw [stops, settle_ctrl_fault clear rfl, ctrlWork_buffersSetup_busy start unconfigured initDone fits busy decodes]
    rfl
  · have ctrl : cmdAgent i = .ctrl := (decodeFor_agent decodes).1
    have stops : step s = .fault (.bus (.ctrl s.ctrl.k s.ctrl.m) (regOffset s.params.regmap r)) :=
      ((stepRunsDecoded s clear).1 i moves decodes).trans (exec_timedOut_fails past waits ctrl ⟨may, answer⟩)
    refine ⟨stops, ?_⟩
    rw [stops, settle_ctrl_fault clear rfl, ctrlWork_timedOut past waits decodes]
    rfl
  · rcases launchRefusal_cases s.params with relay | positions | levels | polls | launched
    · exact .inl (step_launchRefused relay)
    · exact .inr (.inl (step_launchRefused positions))
    · exact .inr (.inr (.inl (step_launchRefused levels)))
    · exact .inr (.inr (.inr (step_launchRefused polls)))
    · obtain ⟨unshifted, ⟨shifted_low, shifted⟩, bcp⟩ := positions_of_launch launched
      obtain ⟨dreqRx, dreqTx, panicRx, panicTx, rxThr, txThr⟩ := levels_of_launch launched
      obtain ⟨relay, depth, clearPolls, syncPolls⟩ := relay_depth_polls_of_launch launched
      refine absurd outside ?_
      simp only [not_or, not_not, Nat.not_lt, Bool.not_eq_true]
      exact ⟨relay, unshifted, ⟨shifted_low, shifted⟩, bcp, dreqRx, dreqTx, panicRx, panicTx, rxThr, txThr, depth, clearPolls,
        syncPolls⟩

end Sys2Proof.Machine
end
